-- ==== Sys2Proof/Word.lean ====
section
/-! DEFINITION. The word types of the AP2 engine (spec/00_scope.md R8, R12). -/

namespace Sys2Proof

/-- A 16-bit word: registers, `pc`, `sp`, addresses, instruction words (R8). -/
abbrev Word := BitVec 16

/-- A byte of memory (R8, R12). -/
abbrev Byte := BitVec 8

/-- The number of a general register, R0 to R7 (spec/10_state.md R20). -/
abbrev Reg := Fin 8

/-- The number of a register the POP destination field reaches, R0 to R3 (spec/10_state.md R21). -/
abbrev PopReg := Fin 4

end Sys2Proof
end

