-- ==== Sys2Proof/Config.lean ====
section
/-! DEFINITION. The parameters the spec leaves open (spec/00_scope.md R9) and the free value `draw()` (R17). -/

namespace Sys2Proof

/-- The eleven instructions that `CLASS_MAP` places in classes 0100..1110 (spec/30_encoding.md R66). -/
inductive AluOp where
  | add | sub | mul | and | orr | not | xor | shr | shl | ror | rol
deriving DecidableEq, Repr

/-- `CLASS_MAP` (R9, spec/93_implementation_defined.md part 3): entry `j` is the instruction of class `4 + j`. -/
abbrev ClassMap := Vector AluOp 11

/-- The parameters of R9 that a machine is built with. `MEM_INIT` is not among them: it is the memory of the state a
run starts in. `IMAGE_END` is not either: each load sets it. -/
structure Config where
  /-- `STACK_START`: the stack's base address, the initial `sp` (OPEN, D1). -/
  stackStart : Word
  /-- `STACK_SIZE`: bytes of the stack window below `STACK_START` (OPEN, D1). -/
  stackSize : Nat
  /-- `NOP_DUMP`: whether NOP emits a dump (OPEN, D16). -/
  nopDump : Bool
  /-- `CLASS_MAP`: which class holds which ALU or shift instruction (D2). -/
  classMap : ClassMap
deriving DecidableEq, Repr

/-- FREE VALUE (R17, log entry 9). The bit the hardware gives at its n-th `draw()`: no source fixes it, it has no
body, and a statement about it holds whatever it is. -/
opaque Config.drawBit : Nat → Bool

end Sys2Proof
end

