-- ==== Sys2Proof/Syntax.lean ====
section
/-! DEFINITION. The instructions, one constructor per row of spec/opcode_table.json. Fields carry the bits that the
row's format names (spec/30_encoding.md R62); a don't-care bit is in no field (R69). -/

namespace Sys2Proof

/-- An instruction of the AP2 engine. `d`, `m`, `n` are register fields (R65), `imm9`, `imm8` and `k` the immediates
of R63 before they are extended. -/
inductive Instr where
  /-- NOP (R100). -/
  | nop
  /-- JMP #imm9 (R102). -/
  | jmp (imm9 : BitVec 9)
  /-- JEQ #imm9 (R103). -/
  | jeq (imm9 : BitVec 9)
  /-- JLT #imm9 (R104). -/
  | jlt (imm9 : BitVec 9)
  /-- JGT #imm9 (R105). -/
  | jgt (imm9 : BitVec 9)
  /-- PSH Rn (R106). -/
  | psh (n : Reg)
  /-- POP Rd, d in 0..3 (R107). -/
  | pop (d : PopReg)
  /-- CMP Rm, Rn (R108). -/
  | cmp (m n : Reg)
  /-- A reserved class-0000 word (R70); `bits` is its `w[10:2]`, not all zero. -/
  | reserved0 (bits : BitVec 9)
  /-- MOV Rd, Rm (R120). -/
  | movReg (d m : Reg)
  /-- MOV Rd, #imm8 (R121). -/
  | movImm (d : Reg) (imm8 : BitVec 8)
  /-- STR [Rm], Rn (R122). -/
  | strReg (m n : Reg)
  /-- STR [Rm], #imm8 (R123). -/
  | strImm (m : Reg) (imm8 : BitVec 8)
  /-- LDR Rd, [Rm] (R124). -/
  | ldr (d m : Reg)
  /-- ADD Rd, Rm, Rn (R135). -/
  | add (d m n : Reg)
  /-- SUB Rd, Rm, Rn (R136). -/
  | sub (d m n : Reg)
  /-- MUL Rd, Rm, Rn (R137). -/
  | mul (d m n : Reg)
  /-- AND Rd, Rm, Rn (R150). -/
  | and (d m n : Reg)
  /-- ORR Rd, Rm, Rn (R151). -/
  | orr (d m n : Reg)
  /-- NOT Rd, Rm (R153). -/
  | not (d m : Reg)
  /-- XOR Rd, Rm, Rn (R152). -/
  | xor (d m n : Reg)
  /-- SHR Rd, Rm, #k (R160). -/
  | shr (d m : Reg) (k : BitVec 5)
  /-- SHL Rd, Rm, #k (R161). -/
  | shl (d m : Reg) (k : BitVec 5)
  /-- ROR Rd, Rm (R162). -/
  | ror (d m : Reg)
  /-- ROL Rd, Rm (R163). -/
  | rol (d m : Reg)
  /-- HALT: every word of class 1111 (R71). -/
  | halt
deriving DecidableEq, Repr

end Sys2Proof
end

