-- ==== Sys2Proof/WellFormed.lean ====
section
/-! DEFINITION. Which terms of `Instr` stand for a word. The types of the fields already hold every range of
spec/30_encoding.md R63 and R65; the one further condition is R70's: a reserved word is not the all-zero word. -/

namespace Sys2Proof

/-- Whether some instruction word decodes to `i` (R63, R65, R70). -/
def Instr.wf (i : Instr) : Bool :=
  match i with
  | .reserved0 bits => bits != 0
  | .nop | .jmp _ | .jeq _ | .jlt _ | .jgt _ | .psh _ | .pop _ | .cmp _ _ => true
  | .movReg _ _ | .movImm _ _ | .strReg _ _ | .strImm _ _ | .ldr _ _ => true
  | .add _ _ _ | .sub _ _ _ | .mul _ _ _ | .and _ _ _ | .orr _ _ _ | .not _ _ | .xor _ _ _ => true
  | .shr _ _ _ | .shl _ _ _ | .ror _ _ | .rol _ _ | .halt => true

end Sys2Proof
end

