-- ==== Sys2Proof/Decode.lean ====
section
/-! DEFINITION. The decoder (spec/30_encoding.md R60-R72), total on all words and on any bytes, and after it the
encoder from the same formats. -/

namespace Sys2Proof

/-! ## CLASS_MAP -/

/-- The default `CLASS_MAP` of R66 (the spec's decision D2, part of it recollection: log entry 4). -/
def defaultClassMap : ClassMap :=
  #v[.add, .sub, .mul, .and, .orr, .not, .xor, .shr, .shl, .ror, .rol]

/-- Every instruction `CLASS_MAP` places. -/
def AluOp.all : List AluOp :=
  [.add, .sub, .mul, .and, .orr, .not, .xor, .shr, .shl, .ror, .rol]

/-- "any bijection of the eleven onto 0100..1110" (D2): no instruction twice, none left out. -/
def ClassMap.wf (cm : ClassMap) : Bool :=
  decide cm.toList.Nodup && AluOp.all.all (fun op => cm.toList.contains op)

/-- The instruction that class `c` holds under the map, if `c` is one of 0100..1110. -/
def ClassMap.opAt (cm : ClassMap) (c : BitVec 4) : Option AluOp :=
  if c.toNat < 4 then none else cm.toList[c.toNat - 4]?

/-- The class that holds `op` under the map. -/
def ClassMap.classOf (cm : ClassMap) (op : AluOp) : BitVec 4 :=
  BitVec.ofNat 4 (4 + cm.toList.idxOf op)

/-! ## Fields of a word (R61, R62, R63) -/

/-- The opcode class `w[15:12]` (R61). -/
def fieldClass (w : Word) : BitVec 4 := w.extractLsb' 12 4

/-- `w[11]`, the bit that selects the jump family and the immediate forms of MOV and STR (R62). -/
def fieldBit11 (w : Word) : Bool := w.getLsbD 11

/-- `w[1:0]`, the selector within class 0000 (R67, R68). -/
def fieldSel (w : Word) : BitVec 2 := w.extractLsb' 0 2

/-- The destination field `d = w[10:8]` (R65). -/
def fieldD (w : Word) : Reg := (w.extractLsb' 8 3).toFin

/-- The field `m = w[7:5]` (R65). -/
def fieldM (w : Word) : Reg := (w.extractLsb' 5 3).toFin

/-- The field `n = w[4:2]` (R65). -/
def fieldN (w : Word) : Reg := (w.extractLsb' 2 3).toFin

/-- POP's destination field `w[9:8]` (R65). -/
def fieldPopD (w : Word) : PopReg := (w.extractLsb' 8 2).toFin

/-- The jump immediate `w[10:2]` (R63). -/
def fieldImm9 (w : Word) : BitVec 9 := w.extractLsb' 2 9

/-- MOV's immediate `w[7:0]` (R63). -/
def fieldMovImm (w : Word) : BitVec 8 := w.extractLsb' 0 8

/-- STR's immediate `w[10:8] : w[4:0]` (R63, spec/90_conflicts.md C2: 8 bits). -/
def fieldStrImm (w : Word) : BitVec 8 := w.extractLsb' 8 3 ++ w.extractLsb' 0 5

/-- The shift count `k = w[4:0]` (R63). -/
def fieldK (w : Word) : BitVec 5 := w.extractLsb' 0 5

/-! ## The decoder -/

/-- The jump family by its selector (R68; the values are the spec's decision D3, log entry 5). -/
def decodeJump (w : Word) : Instr :=
  if fieldSel w = 0 then .jmp (fieldImm9 w)
  else if fieldSel w = 1 then .jeq (fieldImm9 w)
  else if fieldSel w = 2 then .jlt (fieldImm9 w)
  else .jgt (fieldImm9 w)

/-- Class 0000, in the order of precedence of R67. -/
def decodeCompound (w : Word) : Instr :=
  if w = 0 then .nop
  else if fieldBit11 w then decodeJump w
  else if fieldSel w = 1 then .psh (fieldN w)
  else if fieldSel w = 2 then .pop (fieldPopD w)
  else if fieldSel w = 3 then .cmp (fieldM w) (fieldN w)
  else .reserved0 (w.extractLsb' 2 9)

/-- A class that `CLASS_MAP` gives to `op`: formats A3, A2 and SH (R62). -/
def decodeAlu (op : AluOp) (w : Word) : Instr :=
  match op with
  | .add => .add (fieldD w) (fieldM w) (fieldN w)
  | .sub => .sub (fieldD w) (fieldM w) (fieldN w)
  | .mul => .mul (fieldD w) (fieldM w) (fieldN w)
  | .and => .and (fieldD w) (fieldM w) (fieldN w)
  | .orr => .orr (fieldD w) (fieldM w) (fieldN w)
  | .not => .not (fieldD w) (fieldM w)
  | .xor => .xor (fieldD w) (fieldM w) (fieldN w)
  | .shr => .shr (fieldD w) (fieldM w) (fieldK w)
  | .shl => .shl (fieldD w) (fieldM w) (fieldK w)
  | .ror => .ror (fieldD w) (fieldM w)
  | .rol => .rol (fieldD w) (fieldM w)

/-- The instruction of a word under a class map: total on all 65536 words (R66-R72). -/
def decode (cm : ClassMap) (w : Word) : Instr :=
  if fieldClass w = 0 then decodeCompound w
  else if fieldClass w = 1 then
    if fieldBit11 w then .movImm (fieldD w) (fieldMovImm w) else .movReg (fieldD w) (fieldM w)
  else if fieldClass w = 2 then
    if fieldBit11 w then .strImm (fieldM w) (fieldStrImm w) else .strReg (fieldM w) (fieldN w)
  else if fieldClass w = 3 then .ldr (fieldD w) (fieldM w)
  else
    match cm.opAt (fieldClass w) with
    | some op => decodeAlu op w
    | none => .halt

/-- Why bytes are no instruction: an instruction is one whole word (R60), and every whole word is one. -/
inductive DecodeError where
  /-- Fewer than two bytes. -/
  | truncated
deriving DecidableEq, Repr

/-- The word of two bytes, the low byte first (R42, R44). -/
def wordOfBytes (lo hi : Byte) : Word := hi ++ lo

/-- The low byte `v[7:0]` of a word (R43). -/
def lowByte (v : Word) : Byte := v.extractLsb' 0 8

/-- The high byte `v[15:8]` of a word (R43). -/
def highByte (v : Word) : Byte := v.extractLsb' 8 8

/-- The instruction at the head of a list of bytes and the bytes after it: two bytes, little-endian (R60). -/
def decodeBytes (cm : ClassMap) (bytes : List Byte) : Except DecodeError (Instr × List Byte) :=
  match bytes with
  | lo :: hi :: rest => .ok (decode cm (wordOfBytes lo hi), rest)
  | _ => .error .truncated

/-- The word whose lowest `nbits` bits are those of `w` and whose other bits are 0, as spec/opcode_table.json numbers
them. -/
def tableWord (nbits w : Nat) : Word := BitVec.ofNat 16 (w % 2 ^ nbits)

/-- The instruction the decoder reads from an instruction whose bits are `w`, laid out as memory holds it (low byte
first), under the default `CLASS_MAP`, which is spec/opcode_table.json's. -/
def decodeTableWord (nbits w : Nat) : Option Instr :=
  match decodeBytes defaultClassMap [lowByte (tableWord nbits w), highByte (tableWord nbits w)] with
  | .ok (i, _) => some i
  | .error _ => none

/-! ## The encoder: the formats of R62 with every don't-care bit 0 (R73) -/

/-- Format J (R62, R68). -/
def encodeJ (sel : BitVec 2) (imm9 : BitVec 9) : Word := (1 : BitVec 5) ++ imm9 ++ sel

/-- Format A3 (R62). -/
def encodeA3 (c : BitVec 4) (d m n : Reg) : Word :=
  c ++ (0 : BitVec 1) ++ BitVec.ofFin (w := 3) d ++ BitVec.ofFin (w := 3) m ++ BitVec.ofFin (w := 3) n ++ (0 : BitVec 2)

/-- Format SH (R62); with `k = 0` also formats A2, MR and L, whose low five bits are don't-care. -/
def encodeSH (c : BitVec 4) (d m : Reg) (k : BitVec 5) : Word :=
  c ++ (0 : BitVec 1) ++ BitVec.ofFin (w := 3) d ++ BitVec.ofFin (w := 3) m ++ k

/-- The word of an instruction under a class map (R62, R66, R68, R73). -/
def encode (cm : ClassMap) (i : Instr) : Word :=
  match i with
  | .nop => 0
  | .jmp imm9 => encodeJ 0 imm9
  | .jeq imm9 => encodeJ 1 imm9
  | .jlt imm9 => encodeJ 2 imm9
  | .jgt imm9 => encodeJ 3 imm9
  | .psh n => (0 : BitVec 11) ++ BitVec.ofFin (w := 3) n ++ (1 : BitVec 2)
  | .pop d => (0 : BitVec 6) ++ BitVec.ofFin (w := 2) d ++ (2 : BitVec 8)
  | .cmp m n => (0 : BitVec 8) ++ BitVec.ofFin (w := 3) m ++ BitVec.ofFin (w := 3) n ++ (3 : BitVec 2)
  | .reserved0 bits => (0 : BitVec 5) ++ bits ++ (0 : BitVec 2)
  | .movReg d m => encodeSH 1 d m 0
  | .movImm d imm8 => (3 : BitVec 5) ++ BitVec.ofFin (w := 3) d ++ imm8
  | .strReg m n => (4 : BitVec 5) ++ (0 : BitVec 3) ++ BitVec.ofFin (w := 3) m ++ BitVec.ofFin (w := 3) n ++ (0 : BitVec 2)
  | .strImm m imm8 => (5 : BitVec 5) ++ imm8.extractLsb' 5 3 ++ BitVec.ofFin (w := 3) m ++ imm8.extractLsb' 0 5
  | .ldr d m => encodeSH 3 d m 0
  | .add d m n => encodeA3 (cm.classOf .add) d m n
  | .sub d m n => encodeA3 (cm.classOf .sub) d m n
  | .mul d m n => encodeA3 (cm.classOf .mul) d m n
  | .and d m n => encodeA3 (cm.classOf .and) d m n
  | .orr d m n => encodeA3 (cm.classOf .orr) d m n
  | .not d m => encodeSH (cm.classOf .not) d m 0
  | .xor d m n => encodeA3 (cm.classOf .xor) d m n
  | .shr d m k => encodeSH (cm.classOf .shr) d m k
  | .shl d m k => encodeSH (cm.classOf .shl) d m k
  | .ror d m => encodeSH (cm.classOf .ror) d m 0
  | .rol d m => encodeSH (cm.classOf .rol) d m 0
  | .halt => (15 : BitVec 4) ++ (0 : BitVec 12)

/-- The bits of a word that the format of `i` gives a meaning: its fixed bits and its fields; the others are the
don't-care bits `x` of R62. -/
def namedBits (i : Instr) : Word :=
  match i with
  | .nop | .reserved0 _ | .jmp _ | .jeq _ | .jlt _ | .jgt _ => 0xFFFF
  | .psh _ => 0xF81F
  | .pop _ => 0xFB03
  | .cmp _ _ => 0xF8FF
  | .movReg _ _ => 0xFFE0
  | .movImm _ _ => 0xFFFF
  | .strReg _ _ => 0xF8FC
  | .strImm _ _ => 0xFFFF
  | .ldr _ _ => 0xF7E0
  | .add _ _ _ | .sub _ _ _ | .mul _ _ _ | .and _ _ _ | .orr _ _ _ | .xor _ _ _ => 0xF7FC
  | .not _ _ | .ror _ _ | .rol _ _ => 0xF7E0
  | .shr _ _ _ | .shl _ _ _ => 0xF7FF
  | .halt => 0xF000

end Sys2Proof
end

