-- ==== Sys2Proof/Machine/Params.lean ====
section
/-! DEFINITION. The parameter values of the one configuration that `State.reset` names, and what the spec asks of any
configuration (spec/92_eei_decisions.md D1, D2, D16). -/

namespace Sys2Proof

/-- The stack floor `STACK_START - STACK_SIZE` (spec/20_memory.md R48), an integer, since R106 and R107 compare
integers. -/
def Config.floor (c : Config) : Int := (c.stackStart.toNat : Int) - (c.stackSize : Int)

/-- A well-formed configuration: `STACK_SIZE` even and `2 <= STACK_SIZE <= STACK_START <= 0xFFFE` (D1), and a class
map that is a bijection (D2). -/
def Config.wf (c : Config) : Bool :=
  decide (c.stackSize % 2 = 0) && decide (2 ≤ c.stackSize) && decide (c.stackSize ≤ c.stackStart.toNat)
    && decide (c.stackStart.toNat ≤ 0xFFFE) && c.classMap.wf

/-- DESIGN CHOICE, unsafe (log entries 1, 3, 4): the configuration of the spec's test vectors (spec/95_test_vectors.md
section 0), which `State.reset` is built with. Every other configuration is a state of the machine too. -/
def resetConfig : Config :=
  { stackStart := 0x8200, stackSize := 16, nopDump := false, classMap := defaultClassMap }

end Sys2Proof
end

