-- ==== Sys2Proof/Machine/State.lean ====
section
/-! DEFINITION. The state of the AP2 engine (spec/10_state.md), the reasons a step or a host operation stops, and the
machine right after reset (spec/70_reset_and_hazards.md R200). -/

namespace Sys2Proof.Machine

/-- The engine loop's state variable (spec/10_state.md R32, spec/40_engine_loop.md R80). -/
inductive EngineState where
  | fetching | decoding | executing | halted
deriving DecidableEq, Repr

/-- Why the engine entered HALTED (spec/60_exceptions.md R181). -/
inductive StopReason where
  | none | endOfImage | haltInstruction | reservedEncoding
deriving DecidableEq, Repr

/-- The diagnostic events (R182). -/
inductive Diag where
  | pushDropped | popEmpty | shiftFlagUndefined
deriving DecidableEq, Repr

/-- The four flags C, Ov, Z, S (spec/10_state.md R28). -/
structure Flags where
  /-- Carry. -/
  c : Bool
  /-- Overflow. -/
  ov : Bool
  /-- Zero. -/
  z : Bool
  /-- Sign. -/
  s : Bool
deriving DecidableEq, Repr

/-- The byte store (spec/20_memory.md R40): the cells that do not read as the byte of an unlisted address, in rising
order of address. -/
abbrev Memory := List Host.Cell

/-- The content of a NOP dump (spec/41_compound_group.md R100). -/
structure Snapshot where
  x : Vector Word 8
  pc : Word
  sp : Word
  flags : Flags
  mem : Memory
deriving DecidableEq, Repr

/-- What the block hands the host during a run (spec/00_scope.md R18, spec/70_reset_and_hazards.md R206). -/
inductive Event where
  | diag (d : Diag)
  | dump (snapshot : Snapshot)
deriving DecidableEq, Repr

/-- Every piece of state the spec gives the engine (spec/10_state.md section 1), and four fields of the model's own:
`runBegun`, `cfg`, `draws` and `events`. -/
structure State where
  /-- The general registers R0..R7 (R20). -/
  x : Vector Word 8
  /-- The program counter (R24). -/
  pc : Word
  /-- The stack pointer (R26). -/
  sp : Word
  /-- C, Ov, Z, S (R28). -/
  flags : Flags
  /-- `M[0..65535]` (spec/20_memory.md R40). -/
  mem : Memory
  /-- `IMAGE_END`, 0 before any load (R33, log entry 12). -/
  imageEnd : Nat
  /-- `engine_state` (R32). -/
  engineState : EngineState
  /-- `stop_reason` (spec/60_exceptions.md R181). -/
  stopReason : StopReason
  /-- MODEL'S OWN: whether a run has ever begun; with `engineState` it tells a run in progress from the time before
  the first one, which is in FETCHING too (spec/70_reset_and_hazards.md R200, R206; log entry 24). -/
  runBegun : Bool
  /-- MODEL'S OWN: the parameters of spec/00_scope.md R9, which no step writes (log entry 1). -/
  cfg : Config
  /-- MODEL'S OWN: how many `draw()` values have been taken (R17, log entry 9). -/
  draws : Nat
  /-- MODEL'S OWN: the events handed to the host, oldest first (R18, log entry 11). -/
  events : List Event
deriving DecidableEq, Repr

/-- Why a step has no next state. -/
inductive Fault where
  /-- Raised by `step` at a state in HALTED: "HALTED has no step" (spec/40_engine_loop.md R86). Safe: the hardware
  does nothing either. -/
  | halted
  /-- Raised by `step` at a state in HALTED whose stop reason is RESERVED_ENCODING: a model treats that stop as a
  fault (R181, U3). Safe: no claim about a program's result follows. -/
  | reservedEncoding
  /-- Raised by `step` at a state in DECODING or EXECUTING, which no step starts from (R81, R87). Safe. -/
  | notFetching
deriving DecidableEq, Repr

/-- Why a host operation is turned away, or an instruction has no meaning. -/
inductive Refusal where
  /-- The arm of an instruction without a meaning; raised by none. Safe. -/
  | notModelled (mnemonic : String)
  /-- Raised by `hostLoad` on an empty list of pairs (spec/70_reset_and_hazards.md R204). Safe. -/
  | loadEmpty
  /-- Raised by `hostRun` before any successful load (R202, U8). Safe. -/
  | runWithoutLoad
  /-- Raised by `hostRun` at a configuration outside D1 or D2 (R207, U7). Safe. -/
  | illFormedConfiguration
  /-- Raised by `hostLoad` and `hostRun` while a run is in progress: the host cannot write memory or interrupt the
  engine then (R206, spec/60_exceptions.md R183). Safe. -/
  | runInProgress
  /-- Raised by `hostReadout` outside HALTED (R206). Safe. -/
  | readoutBeforeHalted
deriving DecidableEq, Repr

/-- The machine right after reset (R200), before any load. The configuration, the empty memory, `IMAGE_END`,
`runBegun`, `draws` and `events` are the model's choices (log entries 1, 2, 3, 4, 9, 11, 12, 24). -/
def State.reset : State :=
  { x := Vector.replicate 8 0
    pc := 0
    sp := resetConfig.stackStart
    flags := { c := false, ov := false, z := false, s := false }
    mem := []
    imageEnd := 0
    engineState := .fetching
    stopReason := .none
    runBegun := false
    cfg := resetConfig
    draws := 0
    events := [] }

end Sys2Proof.Machine
end

