-- ==== Sys2Proof/Machine/Flags.lean ====
section
/-! DEFINITION. Every flag computation of the spec, from the operands read and the result (spec/10_state.md R29,
spec/40_engine_loop.md R88). -/

namespace Sys2Proof.Machine

/-- `Z <- (r = 0)` (R29). -/
def zeroFlag (r : Word) : Bool := decide (r = 0)

/-- `S <- r[15]` (R29). -/
def signFlag (r : Word) : Bool := r.msb

/-- Z and S from a result; C and Ov as they were (R29; spec/44_logic.md R150-R153). -/
def Flags.withZS (f : Flags) (r : Word) : Flags := { f with z := zeroFlag r, s := signFlag r }

/-- C given, Z and S from a result, Ov as it was (SHR, ROR, ROL; spec/45_shift_rotate.md R160, R162, R163). -/
def Flags.withCZS (f : Flags) (c : Bool) (r : Word) : Flags := { f with c := c, z := zeroFlag r, s := signFlag r }

/-- ADD's carry test, `a > 0xFFFF - b`, which MUL shares (spec/43_arithmetic.md R135, R137). -/
def addCarry (a b : Word) : Bool := decide (a.toNat > 0xFFFF - b.toNat)

/-- ADD's overflow: "same sign bit and that sign bit differs from rd's" (R135). -/
def addOverflow (a b r : Word) : Bool := a.msb == b.msb && r.msb != a.msb

/-- SUB's borrow, `a < b` unsigned (R136). -/
def subBorrow (a b : Word) : Bool := decide (a.toNat < b.toNat)

/-- SUB's overflow: "different sign bits and rm's sign bit differs from rd's" (R136). -/
def subOverflow (a b r : Word) : Bool := a.msb != b.msb && r.msb != a.msb

/-- MUL's overflow, which compares rn's sign bit with rd's (R137). -/
def mulOverflow (a b r : Word) : Bool := a.msb == b.msb && b.msb != r.msb

/-- The flags after ADD (R135). -/
def addFlags (a b r : Word) : Flags :=
  { c := addCarry a b, ov := addOverflow a b r, z := zeroFlag r, s := signFlag r }

/-- The flags after SUB (R136). -/
def subFlags (a b r : Word) : Flags :=
  { c := subBorrow a b, ov := subOverflow a b r, z := zeroFlag r, s := signFlag r }

/-- The flags after MUL (R137). -/
def mulFlags (a b r : Word) : Flags :=
  { c := addCarry a b, ov := mulOverflow a b r, z := zeroFlag r, s := signFlag r }

/-- The flags after CMP: Z equal, S unsigned less, C and Ov as they were (spec/41_compound_group.md R108). -/
def Flags.withCmp (f : Flags) (a b : Word) : Flags := { f with z := decide (a = b), s := decide (a.toNat < b.toNat) }

/-- JEQ's condition (R103). -/
def Flags.condEq (f : Flags) : Bool := f.z && !f.s

/-- JLT's condition (R104). -/
def Flags.condLt (f : Flags) : Bool := !f.z && f.s

/-- JGT's condition (R105). -/
def Flags.condGt (f : Flags) : Bool := !f.z && !f.s

end Sys2Proof.Machine
end

