-- ==== Sys2Proof/Machine/Ops.lean ====
section
/-! DEFINITION. The operations every meaning is written over: bytes and words of memory (spec/20_memory.md), registers,
`draw()`, events, and `stop(reason)`, which on this hardware stands where others take an exception
(spec/60_exceptions.md R180, R181, R185: there is no trap entry and no return). -/

namespace Sys2Proof.Machine

/-! ## The byte store -/

/-- What an address that memory does not list reads as. DESIGN CHOICE, unsafe (log entry 2): the spec leaves
`MEM_INIT` open (D11). Every content of the 65536 bytes is some canonical list, so a statement about every state is
one about every `MEM_INIT`. -/
def Memory.unlisted : Byte := 0

/-- `M[a]` (R40). -/
def Memory.read (m : Memory) (a : Nat) : Byte :=
  match m with
  | [] => Memory.unlisted
  | (k, v) :: rest => if k = a then v else Memory.read rest a

/-- The memory with the cell of `a` in front, unless `b` is what an unlisted address reads as. -/
def Memory.cons (a : Nat) (b : Byte) (m : Memory) : Memory :=
  if b = Memory.unlisted then m else (a, b) :: m

/-- `M[a] <- b` (R41), keeping the canonical form. -/
def Memory.write (m : Memory) (a : Nat) (b : Byte) : Memory :=
  match m with
  | [] => Memory.cons a b []
  | (k, v) :: rest =>
    if a < k then Memory.cons a b ((k, v) :: rest)
    else if a = k then Memory.cons a b rest
    else (k, v) :: Memory.write rest a b

/-- The canonical form: addresses strictly rising and below 65536 (R40), no cell equal to what an unlisted address
reads as. -/
def Memory.wf (m : Memory) : Bool :=
  decide (m.Pairwise (fun c d => c.1 < d.1)) && m.all (fun c => decide (c.1 < 65536) && c.2 != Memory.unlisted)

/-- `MemRead(a, 1)` (R41). -/
def State.readByte (s : State) (a : Word) : Byte := Memory.read s.mem a.toNat

/-- `MemWrite(a, 1, b)` (R41). -/
def State.writeByte (s : State) (a : Word) (b : Byte) : State :=
  { s with mem := Memory.write s.mem a.toNat b }

/-- `MemRead(a, 2)`, little-endian, the second address modulo 2^16 (R42, R45). -/
def State.readWord (s : State) (a : Word) : Word := wordOfBytes (s.readByte a) (s.readByte (a + 1))

/-- `MemWrite(a, 2, v)`, little-endian, the second address modulo 2^16 (R43, R45). -/
def State.writeWord (s : State) (a : Word) (v : Word) : State :=
  (s.writeByte a (lowByte v)).writeByte (a + 1) (highByte v)

/-! ## Registers -/

/-- `x[i]` (spec/00_scope.md R14). -/
def State.reg (s : State) (i : Reg) : Word := s.x[i]

/-- `x[i] <- v` (R14); no register is hardwired (spec/10_state.md R20). -/
def State.setReg (s : State) (i : Reg) (v : Word) : State := { s with x := s.x.set i v }

/-- A result and the flags that go with it, written after every source was read (spec/40_engine_loop.md R88). -/
def State.writeResult (s : State) (d : Reg) (r : Word) (f : Flags) : State :=
  { s with x := s.x.set d r, flags := f }

/-! ## Events, stops and draws -/

/-- `emit(event)`: the event goes to the host, no architectural state changes (R18, R182). -/
def State.emit (s : State) (e : Event) : State := { s with events := s.events ++ [e] }

/-- `emit(event)` under a condition. -/
def State.emitIf (s : State) (p : Bool) (e : Event) : State := if p then s.emit e else s

/-- The snapshot of a NOP dump (spec/41_compound_group.md R100). -/
def State.snapshot (s : State) : Snapshot :=
  { x := s.x, pc := s.pc, sp := s.sp, flags := s.flags, mem := s.mem }

/-- `stop(reason)`: HALTED, with its reason recorded, and nothing else (R18, R181, R185). -/
def State.stop (s : State) (r : StopReason) : State := { s with engineState := .halted, stopReason := r }

/-- The code of a stop reason (R181). -/
def StopReason.code (r : StopReason) : Nat :=
  match r with
  | .none => 0
  | .endOfImage => 1
  | .haltInstruction => 2
  | .reservedEncoding => 3

/-- `draw()`: the next bit that no source fixes (R17, log entry 9). -/
def State.draw (s : State) : Bool × State := (Config.drawBit s.draws, { s with draws := s.draws + 1 })

/-- `bit(v, k)` for an integer `k` (R16): bit `k` of `v`, 0 from 16 on, a draw below 0. -/
def State.bitAt (s : State) (v : Word) (k : Int) : Bool × State :=
  if k < 0 then s.draw else (v.getLsbD k.toNat, s)

/-! ## Program counter -/

/-- A jump: if its condition holds, `pc <- (pc + offset) mod 2^16`, where `pc` is already past the jump
(spec/41_compound_group.md R101). -/
def State.jumpIf (s : State) (cond : Bool) (offset : Word) : State :=
  if cond then { s with pc := s.pc + offset } else s

end Sys2Proof.Machine
end

