-- ==== Sys2Proof/Machine/Operands.lean ====
section
/-! DEFINITION. The operand forms (spec/30_encoding.md R63, R64) and the addresses of memory operands
(spec/20_memory.md R47). A register operand is `State.reg`. -/

namespace Sys2Proof.Machine

/-- `zext_16` of the jump immediate (R63). -/
def jumpOffset (imm9 : BitVec 9) : Word := imm9.setWidth 16

/-- `zext_16` of MOV's or STR's immediate (R63). -/
def immWord (imm8 : BitVec 8) : Word := imm8.setWidth 16

/-- The shift count (R63), 0..31. -/
def shiftCount (k : BitVec 5) : Nat := k.toNat

/-- The register that POP's 2-bit field names: R0..R3 (R65). -/
def popDest (d : PopReg) : Reg := ⟨d.val, by omega⟩

/-- The address of a memory operand `[Rm]`: the register's value, no displacement (R64). -/
def State.memAddr (s : State) (m : Reg) : Word := s.reg m

/-- The address PSH writes: `sp` before the decrement (R47). -/
def State.pushAddr (s : State) : Word := s.sp

/-- The address POP reads: `sp + 2` (R47). -/
def State.popAddr (s : State) : Word := s.sp + 2

end Sys2Proof.Machine
end

