-- ==== Sys2Proof/Machine/Arithmetic.lean ====
section
/-! DEFINITION. The meanings of ADD, SUB and MUL (spec/43_arithmetic.md): every result modulo 2^16 (R138). -/

namespace Sys2Proof.Machine

/-- A result and its flags, both from the operands' values before the write (R88). -/
def State.arith (s : State) (d m n : Reg) (op : Word → Word → Word) (fl : Word → Word → Word → Flags) : State :=
  s.writeResult d (op (s.reg m) (s.reg n)) (fl (s.reg m) (s.reg n) (op (s.reg m) (s.reg n)))

/-- ADD Rd, Rm, Rn (R135). -/
def execAdd (d m n : Reg) (s : State) : Host.Outcome State Fault Refusal :=
  .next (s.arith d m n (fun a b => a + b) addFlags)

/-- SUB Rd, Rm, Rn (R136). -/
def execSub (d m n : Reg) (s : State) : Host.Outcome State Fault Refusal :=
  .next (s.arith d m n (fun a b => a - b) subFlags)

/-- MUL Rd, Rm, Rn: the low 16 bits of the product (R137). -/
def execMul (d m n : Reg) (s : State) : Host.Outcome State Fault Refusal :=
  .next (s.arith d m n (fun a b => a * b) mulFlags)

end Sys2Proof.Machine
end

