-- ==== Sys2Proof/Machine/Stack.lean ====
section
/-! DEFINITION. The stack operations of PSH and POP (spec/41_compound_group.md R106, R107), over the stack operand's
addresses. -/

namespace Sys2Proof.Machine

/-- Whether a push takes place: `sp > STACK_START - STACK_SIZE`, on integers (R106). -/
def State.canPush (s : State) : Bool := decide (s.cfg.floor < (s.sp.toNat : Int))

/-- Whether a pop takes place: `STACK_START - STACK_SIZE <= sp` and `sp < STACK_START`, on integers (R107). -/
def State.canPop (s : State) : Bool :=
  decide (s.cfg.floor ≤ (s.sp.toNat : Int)) && decide (s.sp.toNat < s.cfg.stackStart.toNat)

/-- PSH's effect: the word at `sp`, then `sp - 2` (modulo 2^16, log entry 15); on a full stack only the diagnostic
(R106, spec/20_memory.md R53). -/
def State.push (s : State) (v : Word) : State :=
  if s.canPush then { s.writeWord s.pushAddr v with sp := s.sp - 2 } else s.emit (.diag .pushDropped)

/-- POP's effect: `sp + 2`, then the word at the new `sp`; on an empty stack only the diagnostic (R107, R53). -/
def State.pop (s : State) (d : Reg) : State :=
  if s.canPop then { s with sp := s.popAddr, x := s.x.set d (s.readWord s.popAddr) } else s.emit (.diag .popEmpty)

end Sys2Proof.Machine
end

