-- ==== Sys2Proof/Machine/Compound.lean ====
section
/-! DEFINITION. The meanings of class 0000 (spec/41_compound_group.md, spec/30_encoding.md R70). Every meaning runs
with `pc` already past the instruction (spec/40_engine_loop.md R83). -/

namespace Sys2Proof.Machine

/-- NOP: nothing, but for the dump when `NOP_DUMP` is set (R100). -/
def execNop (s : State) : Host.Outcome State Fault Refusal :=
  .next (s.emitIf s.cfg.nopDump (.dump s.snapshot))

/-- JMP #imm9 (R102). -/
def execJmp (imm9 : BitVec 9) (s : State) : Host.Outcome State Fault Refusal :=
  .next (s.jumpIf true (jumpOffset imm9))

/-- JEQ #imm9 (R103). -/
def execJeq (imm9 : BitVec 9) (s : State) : Host.Outcome State Fault Refusal :=
  .next (s.jumpIf s.flags.condEq (jumpOffset imm9))

/-- JLT #imm9 (R104). -/
def execJlt (imm9 : BitVec 9) (s : State) : Host.Outcome State Fault Refusal :=
  .next (s.jumpIf s.flags.condLt (jumpOffset imm9))

/-- JGT #imm9 (R105). -/
def execJgt (imm9 : BitVec 9) (s : State) : Host.Outcome State Fault Refusal :=
  .next (s.jumpIf s.flags.condGt (jumpOffset imm9))

/-- PSH Rn (R106). -/
def execPsh (n : Reg) (s : State) : Host.Outcome State Fault Refusal :=
  .next (s.push (s.reg n))

/-- POP Rd (R107). -/
def execPop (d : PopReg) (s : State) : Host.Outcome State Fault Refusal :=
  .next (s.pop (popDest d))

/-- CMP Rm, Rn (R108). -/
def execCmp (m n : Reg) (s : State) : Host.Outcome State Fault Refusal :=
  .next { s with flags := s.flags.withCmp (s.reg m) (s.reg n) }

/-- A reserved class-0000 word: `stop(RESERVED_ENCODING)` (R70, R84, D4); log entry 6. -/
def execReserved0 (s : State) : Host.Outcome State Fault Refusal :=
  .next (s.stop .reservedEncoding)

/-- HALT: `stop(HALT_INSTRUCTION)` (R71, R84). -/
def execHalt (s : State) : Host.Outcome State Fault Refusal :=
  .next (s.stop .haltInstruction)

end Sys2Proof.Machine
end

