-- ==== Sys2Proof/Machine/Logic.lean ====
section
/-! DEFINITION. The meanings of AND, ORR, XOR and NOT (spec/44_logic.md): "set Z, S only; C and Ov left untouched". -/

namespace Sys2Proof.Machine

/-- A result that sets Z and S only (R150-R153). -/
def State.logic (s : State) (d : Reg) (r : Word) : State := s.writeResult d r (s.flags.withZS r)

/-- AND Rd, Rm, Rn (R150). -/
def execAnd (d m n : Reg) (s : State) : Host.Outcome State Fault Refusal :=
  .next (s.logic d (s.reg m &&& s.reg n))

/-- ORR Rd, Rm, Rn (R151). -/
def execOrr (d m n : Reg) (s : State) : Host.Outcome State Fault Refusal :=
  .next (s.logic d (s.reg m ||| s.reg n))

/-- XOR Rd, Rm, Rn (R152). -/
def execXor (d m n : Reg) (s : State) : Host.Outcome State Fault Refusal :=
  .next (s.logic d (s.reg m ^^^ s.reg n))

/-- NOT Rd, Rm (R153). -/
def execNot (d m : Reg) (s : State) : Host.Outcome State Fault Refusal :=
  .next (s.logic d (s.reg m ^^^ 0xFFFF))

end Sys2Proof.Machine
end

