-- ==== Sys2Proof/Machine/Movement.lean ====
section
/-! DEFINITION. The meanings of MOV, STR and LDR (spec/42_data_movement.md): "No flags affected". -/

namespace Sys2Proof.Machine

/-- MOV Rd, Rm (R120). -/
def execMovReg (d m : Reg) (s : State) : Host.Outcome State Fault Refusal :=
  .next (s.setReg d (s.reg m))

/-- MOV Rd, #imm8 (R121). -/
def execMovImm (d : Reg) (imm8 : BitVec 8) (s : State) : Host.Outcome State Fault Refusal :=
  .next (s.setReg d (immWord imm8))

/-- STR [Rm], Rn (R122). -/
def execStrReg (m n : Reg) (s : State) : Host.Outcome State Fault Refusal :=
  .next (s.writeWord (s.memAddr m) (s.reg n))

/-- STR [Rm], #imm8: a whole word, its high byte 0 (R123). -/
def execStrImm (m : Reg) (imm8 : BitVec 8) (s : State) : Host.Outcome State Fault Refusal :=
  .next (s.writeWord (s.memAddr m) (immWord imm8))

/-- LDR Rd, [Rm]: the address is read before the destination is written (R124, R88). -/
def execLdr (d m : Reg) (s : State) : Host.Outcome State Fault Refusal :=
  .next (s.setReg d (s.readWord (s.memAddr m)))

end Sys2Proof.Machine
end

