-- ==== Sys2Proof/Machine/Shift.lean ====
section
/-! DEFINITION. The meanings of SHR, SHL, ROR and ROL (spec/45_shift_rotate.md). -/

namespace Sys2Proof.Machine

/-- SHR's effect by a count: C is `bit(a, k - 1)`, a draw when `k = 0`; Ov as it was (R160). -/
def State.shiftRight (s : State) (d m : Reg) (k : Nat) : State :=
  let a := s.reg m
  let r := a >>> k
  let (c, s1) := s.bitAt a ((k : Int) - 1)
  (s1.writeResult d r (s.flags.withCZS c r)).emitIf (decide (k = 0)) (.diag .shiftFlagUndefined)

/-- SHL's effect by a count: C and Ov are `bit(a, 16 - k)`, two independent draws when `k > 16` (R161). -/
def State.shiftLeft (s : State) (d m : Reg) (k : Nat) : State :=
  let a := s.reg m
  let r := a <<< k
  let (c, s1) := s.bitAt a (16 - (k : Int))
  let (ov, s2) := s1.bitAt a (16 - (k : Int))
  (s2.writeResult d r { c := c, ov := ov, z := zeroFlag r, s := signFlag r }).emitIf (decide (16 < k))
    (.diag .shiftFlagUndefined)

/-- ROR's result: one bit to the right, `a[0]` into bit 15 (R162). -/
def rotateRight (a : Word) : Word := (a >>> 1) ||| ((a &&& 1) <<< 15)

/-- ROL's result: one bit to the left, `a[15]` into bit 0 (R163). -/
def rotateLeft (a : Word) : Word := (a <<< 1) ||| (a >>> 15)

/-- SHR Rd, Rm, #k (R160). -/
def execShr (d m : Reg) (k : BitVec 5) (s : State) : Host.Outcome State Fault Refusal :=
  .next (s.shiftRight d m (shiftCount k))

/-- SHL Rd, Rm, #k (R161). -/
def execShl (d m : Reg) (k : BitVec 5) (s : State) : Host.Outcome State Fault Refusal :=
  .next (s.shiftLeft d m (shiftCount k))

/-- ROR Rd, Rm: C is the bit rotated out (R162). -/
def execRor (d m : Reg) (s : State) : Host.Outcome State Fault Refusal :=
  .next (s.writeResult d (rotateRight (s.reg m)) (s.flags.withCZS ((s.reg m).getLsbD 0) (rotateRight (s.reg m))))

/-- ROL Rd, Rm: C is the bit rotated out (R163). -/
def execRol (d m : Reg) (s : State) : Host.Outcome State Fault Refusal :=
  .next (s.writeResult d (rotateLeft (s.reg m)) (s.flags.withCZS ((s.reg m).getLsbD 15) (rotateLeft (s.reg m))))

end Sys2Proof.Machine
end

