-- ==== Sys2Proof/Machine/Dispatch.lean ====
section
/-! DEFINITION. The meaning of every instruction, one arm per constructor of Instr. -/

namespace Sys2Proof.Machine

def exec (i : Instr) (s : State) : Host.Outcome State Fault Refusal :=
  match i with
  | .nop => Sys2Proof.Machine.execNop s
  | .jmp imm9 => Sys2Proof.Machine.execJmp imm9 s
  | .jeq imm9 => Sys2Proof.Machine.execJeq imm9 s
  | .jlt imm9 => Sys2Proof.Machine.execJlt imm9 s
  | .jgt imm9 => Sys2Proof.Machine.execJgt imm9 s
  | .psh n => Sys2Proof.Machine.execPsh n s
  | .pop d => Sys2Proof.Machine.execPop d s
  | .cmp m n => Sys2Proof.Machine.execCmp m n s
  | .reserved0 _ => Sys2Proof.Machine.execReserved0 s
  | .movReg d m => Sys2Proof.Machine.execMovReg d m s
  | .movImm d imm8 => Sys2Proof.Machine.execMovImm d imm8 s
  | .strReg m n => Sys2Proof.Machine.execStrReg m n s
  | .strImm m imm8 => Sys2Proof.Machine.execStrImm m imm8 s
  | .ldr d m => Sys2Proof.Machine.execLdr d m s
  | .add d m n => Sys2Proof.Machine.execAdd d m n s
  | .sub d m n => Sys2Proof.Machine.execSub d m n s
  | .mul d m n => Sys2Proof.Machine.execMul d m n s
  | .and d m n => Sys2Proof.Machine.execAnd d m n s
  | .orr d m n => Sys2Proof.Machine.execOrr d m n s
  | .not d m => Sys2Proof.Machine.execNot d m s
  | .xor d m n => Sys2Proof.Machine.execXor d m n s
  | .shr d m k => Sys2Proof.Machine.execShr d m k s
  | .shl d m k => Sys2Proof.Machine.execShl d m k s
  | .ror d m => Sys2Proof.Machine.execRor d m s
  | .rol d m => Sys2Proof.Machine.execRol d m s
  | .halt => Sys2Proof.Machine.execHalt s

end Sys2Proof.Machine
end

