-- ==== Sys2Proof/Machine/HostInterface.lean ====
section
/-! DEFINITION. The host's operations (spec/70_reset_and_hazards.md R200-R208): load, run, readout. -/

namespace Sys2Proof.Machine

/-- One (address, word) pair of a load: the low byte first, then `IMAGE_END <- address + 2`, a natural number
(R203). -/
def State.loadPair (s : State) (p : Word × Word) : State :=
  { (s.writeByte p.1 (lowByte p.2)).writeByte (p.1 + 1) (highByte p.2) with imageEnd := p.1.toNat + 2 }

/-- Whether a run is in progress: one has begun and has not reached HALTED (R200, R206, log entry 24). -/
def State.inRun (s : State) : Bool := s.runBegun && decide (s.engineState ≠ .halted)

/-- `load(pairs)`: the pairs in file order, clearing nothing (R203, R205); an empty load fails (R204), and during a run
the host cannot write memory (R206). -/
def hostLoad (pairs : List (Word × Word)) (s : State) : Host.Outcome State Fault Refusal :=
  match pairs with
  | [] => .refused .loadEmpty
  | p :: ps => if s.inRun then .refused .runInProgress else .next ((p :: ps).foldl State.loadPair s)

/-- Whether a load has succeeded: every load leaves `IMAGE_END` at 2 or more (R203, log entry 12). DESIGN CHOICE: an
empty load after a successful one fails and changes nothing, so this stays true and the host may run the earlier image
again; R202 and R204 speak of a failed load with none before it (log entry 23). -/
def State.loaded (s : State) : Bool := decide (2 ≤ s.imageEnd)

/-- The reset that starts a run: registers, `pc`, `sp`, flags, `engine_state`, `stop_reason` (R200); memory and
`IMAGE_END` are kept (R201), and so are the model's own `cfg`, `draws` and `events`. A run has now begun. -/
def State.runReset (s : State) : State :=
  { s with
    x := Vector.replicate 8 0
    pc := 0
    sp := s.cfg.stackStart
    flags := { c := false, ov := false, z := false, s := false }
    engineState := .fetching
    stopReason := .none
    runBegun := true }

/-- `run()`, up to the first step: the configuration meets D1 (R207, U7), a load has succeeded (R202, U8), no
run is in progress (R206, R207), and the machine is reset (R200). The steps that follow are `step`'s. -/
def hostRun (s : State) : Host.Outcome State Fault Refusal :=
  if s.cfg.wf = false then .refused .illFormedConfiguration
  else if s.loaded = false then .refused .runWithoutLoad
  else if s.inRun then .refused .runInProgress
  else .next s.runReset

/-- The raw state that `readout()` gives the host (R206, R208); the report's text is the host's. -/
structure Readout where
  x : Vector Word 8
  pc : Word
  sp : Word
  flags : Flags
  mem : Memory
  stopReason : StopReason
deriving DecidableEq, Repr

/-- `readout()`, allowed in HALTED (R206, R208). -/
def hostReadout (s : State) : Host.Outcome Readout Fault Refusal :=
  if s.engineState = .halted then
    .next { x := s.x, pc := s.pc, sp := s.sp, flags := s.flags, mem := s.mem, stopReason := s.stopReason }
  else .refused .readoutBeforeHalted

end Sys2Proof.Machine
end

