-- ==== Sys2Proof/Machine/Fetch.lean ====
section
/-! DEFINITION. The parts of the engine loop around an instruction's meaning (spec/40_engine_loop.md R82-R87), which
`step` puts together. -/

namespace Sys2Proof.Machine

/-- The end-of-image test, on natural numbers: `pc >= IMAGE_END` (R82). -/
def State.atEndOfImage (s : State) : Bool := decide (s.imageEnd ≤ s.pc.toNat)

/-- The word the fetch reads: `MemRead(pc, 2)` (R83). -/
def State.fetchedWord (s : State) : Word := s.readWord s.pc

/-- The instruction the fetched word decodes to under the machine's `CLASS_MAP` (R84). -/
def State.fetchedInstr (s : State) : Instr := decode s.cfg.classMap s.fetchedWord

/-- Whether the engine enters EXECUTING with the instruction: all but the two that stop it in DECODING (R84). -/
def entersExecuting (i : Instr) : Bool :=
  match i with
  | .halt => false
  | .reserved0 _ => false
  | _ => true

/-- The state the meaning of `i` runs in: `pc` past the word, modulo 2^16 (R83), and the engine in EXECUTING, or still
in DECODING for the two stops (R84). An instruction belongs to a run, so one has begun (log entry 24). -/
def State.entered (s : State) (i : Instr) : State :=
  { s with pc := s.pc + 2, engineState := if entersExecuting i then .executing else .decoding, runBegun := true }

/-- The end of the step: `engine_state <- FETCHING`, unless the engine has stopped (R85, R87). -/
def State.finished (s : State) : State :=
  if s.engineState = .halted then s else { s with engineState := .fetching }

/-- An outcome with its next state finished. -/
def finishedOutcome (o : Host.Outcome State Fault Refusal) : Host.Outcome State Fault Refusal :=
  match o with
  | .next t => .next t.finished
  | .fault f => .fault f
  | .refused r => .refused r

/-- Why HALTED has no step (R86): after RESERVED_ENCODING it is the fault of R181 and U3. -/
def State.haltFault (s : State) : Fault :=
  if s.stopReason = .reservedEncoding then .reservedEncoding else .halted

/-- The state with one more loaded word at `pc` (R203) and the engine ready to fetch it. -/
def State.placeWord (s : State) (w : Word) : State :=
  { s.loadPair (s.pc, w) with engineState := .fetching, stopReason := .none }

end Sys2Proof.Machine
end

