-- ==== Sys2Proof/Machine/Step.lean ====
section
/-! DEFINITION. One step of the machine: one whole instruction or a transition into HALTED (spec/40_engine_loop.md R81,
R87). -/

namespace Sys2Proof.Machine

/-- The step of R87. -/
def step (s : State) : Host.Outcome State Fault Refusal :=
  match s.engineState with
  | .fetching =>
    if s.atEndOfImage then .next (s.stop .endOfImage)
    else finishedOutcome (exec s.fetchedInstr (s.entered s.fetchedInstr))
  | .decoding => .fault .notFetching
  | .executing => .fault .notFetching
  | .halted => .fault s.haltFault

/-- `s` with the word whose `nbits` bits are `w` stored where `step` fetches next: the host's load of one pair
(spec/70_reset_and_hazards.md R203) at `pc`, and an engine in FETCHING (log entry 13). -/
def State.withFetchWord (s : State) (nbits w : Nat) : State := s.placeWord (tableWord nbits w)

end Sys2Proof.Machine
end

