-- ==== Sys2Proof/Safety.lean ====
section
/-! DEFINITION. The terms the statements use: the machine's invariant, what a claim-bearing stop is, runs of several
instructions and steps, and what an instruction may change. -/

namespace Sys2Proof.Machine

/-! ## Invariant -/

/-- What holds of the machine at every step boundary. -/
structure State.Inv (s : State) : Prop where
  /-- Memory keeps its canonical form. -/
  mem : Memory.wf s.mem = true
  /-- The configuration meets D1 and D2 (spec/92_eei_decisions.md). -/
  cfg : s.cfg.wf = true
  /-- `sp` does not pass the floor (spec/10_state.md R27). -/
  spLow : s.cfg.floor ≤ (s.sp.toNat : Int)
  /-- `sp` does not pass `STACK_START` (R27). -/
  spHigh : s.sp.toNat ≤ s.cfg.stackStart.toNat
  /-- `sp` is `STACK_START - 2k` (R27). -/
  spEven : (s.cfg.stackStart.toNat - s.sp.toNat) % 2 = 0
  /-- Z and S never hold together (R31). -/
  flags : ¬ (s.flags.z = true ∧ s.flags.s = true)
  /-- `IMAGE_END` is 0 before any load and in 2..0x10001 after one (spec/70_reset_and_hazards.md R203). -/
  imageEnd : s.imageEnd = 0 ∨ (2 ≤ s.imageEnd ∧ s.imageEnd ≤ 0x10001)
  /-- A step begins and ends in FETCHING or HALTED (spec/40_engine_loop.md R81). -/
  engine : s.engineState = .fetching ∨ s.engineState = .halted
  /-- The stop reason is NONE exactly while the engine runs (spec/60_exceptions.md R181). -/
  reason : s.stopReason = .none ↔ s.engineState = .fetching

/-- A stop whose final state claims may rest on: any but RESERVED_ENCODING (spec/60_exceptions.md R181). -/
def State.claimBearingStop (s : State) : Prop := s.engineState = .halted ∧ s.stopReason ≠ .reservedEncoding

/-! ## Runs -/

/-- The meanings of a list of instructions one after another, ending at the first fault or refusal. -/
def execAll (is : List Instr) (s : State) : Host.Outcome State Fault Refusal :=
  match is with
  | [] => .next s
  | i :: rest =>
    match exec i s with
    | .next t => execAll rest t
    | .fault f => .fault f
    | .refused r => .refused r

/-- `k` steps, ending at the first fault or refusal. -/
def stepMany (k : Nat) (s : State) : Host.Outcome State Fault Refusal :=
  match k with
  | 0 => .next s
  | j + 1 =>
    match step s with
    | .next t => stepMany j t
    | .fault f => .fault f
    | .refused r => .refused r

/-- Popping into R0 again and again gives the listed values, in order, and ends with the stack pointer at `sp`. -/
def popsGive (vs : List Word) (sp : Word) (s : State) : Prop :=
  match vs with
  | [] => s.sp = sp
  | v :: rest => ∃ t, exec (.pop 0) s = .next t ∧ t.reg 0 = v ∧ popsGive rest sp t

/-! ## Frames: what `t` keeps of `s` -/

/-- Every general register but `d`. -/
def keepsRegsBut (d : Reg) (s t : State) : Prop := ∀ e : Reg, e ≠ d → t.reg e = s.reg e

/-- Every general register. -/
def keepsRegs (s t : State) : Prop := ∀ e : Reg, t.reg e = s.reg e

/-- Every byte of memory. -/
def keepsMemory (s t : State) : Prop := ∀ a : Word, t.readByte a = s.readByte a

/-- Every byte of memory but the two of the word at `a`. -/
def keepsMemoryBut (a : Word) (s t : State) : Prop := ∀ b : Word, b ≠ a → b ≠ a + 1 → t.readByte b = s.readByte b

/-- `IMAGE_END`, the engine's state, its stop reason, whether a run has begun, and the configuration. -/
def keepsEngine (s t : State) : Prop :=
  t.imageEnd = s.imageEnd ∧ t.engineState = s.engineState ∧ t.stopReason = s.stopReason ∧ t.runBegun = s.runBegun ∧
    t.cfg = s.cfg

/-- No draw was taken and no event emitted. -/
def isQuiet (s t : State) : Prop := t.draws = s.draws ∧ t.events = s.events

/-- Everything but general registers and flags. -/
def keepsBesidesRegsFlags (s t : State) : Prop :=
  t.pc = s.pc ∧ t.sp = s.sp ∧ keepsMemory s t ∧ keepsEngine s t ∧ isQuiet s t

/-! ## What the spec's tables say an instruction may change -/

/-- The general register an instruction writes (spec/10_state.md R22). -/
def regWritten (i : Instr) : Option Reg :=
  match i with
  | .movReg d _ | .movImm d _ | .ldr d _ => some d
  | .add d _ _ | .sub d _ _ | .mul d _ _ | .and d _ _ | .orr d _ _ | .not d _ | .xor d _ _ => some d
  | .shr d _ _ | .shl d _ _ | .ror d _ | .rol d _ => some d
  | .pop d => some (popDest d)
  | .nop | .jmp _ | .jeq _ | .jlt _ | .jgt _ | .psh _ | .cmp _ _ | .reserved0 _ => none
  | .strReg _ _ | .strImm _ _ | .halt => none

/-- Whether an instruction writes C (spec/10_state.md R29). -/
def writesC (i : Instr) : Bool :=
  match i with
  | .add _ _ _ | .sub _ _ _ | .mul _ _ _ | .shr _ _ _ | .shl _ _ _ | .ror _ _ | .rol _ _ => true
  | _ => false

/-- Whether an instruction writes Ov (R29). -/
def writesOv (i : Instr) : Bool :=
  match i with
  | .add _ _ _ | .sub _ _ _ | .mul _ _ _ | .shl _ _ _ => true
  | _ => false

/-- Whether an instruction writes Z and S (R29). -/
def writesZS (i : Instr) : Bool :=
  match i with
  | .add _ _ _ | .sub _ _ _ | .mul _ _ _ | .and _ _ _ | .orr _ _ _ | .not _ _ | .xor _ _ _ => true
  | .shr _ _ _ | .shl _ _ _ | .ror _ _ | .rol _ _ | .cmp _ _ => true
  | _ => false

/-- Whether an instruction is of the jump family (spec/41_compound_group.md R101). -/
def isJump (i : Instr) : Bool :=
  match i with
  | .jmp _ | .jeq _ | .jlt _ | .jgt _ => true
  | _ => false

/-- The address an instruction stores a word to from state `s`, if it stores (spec/20_memory.md R47). -/
def storeAddr (s : State) (i : Instr) : Option Word :=
  match i with
  | .strReg m _ => some (s.memAddr m)
  | .strImm m _ => some (s.memAddr m)
  | .psh _ => if s.canPush then some s.pushAddr else none
  | _ => none

/-- How many draws an instruction takes (spec/00_scope.md R17, spec/93_implementation_defined.md U1, U2). -/
def drawsTaken (i : Instr) : Nat :=
  match i with
  | .shr _ _ k => if k = 0 then 1 else 0
  | .shl _ _ k => if 16 < shiftCount k then 2 else 0
  | _ => 0

/-- The events an instruction emits from state `s` (spec/60_exceptions.md R182, spec/41_compound_group.md R100). -/
def eventsOf (s : State) (i : Instr) : List Event :=
  match i with
  | .nop => if s.cfg.nopDump then [.dump s.snapshot] else []
  | .psh _ => if s.canPush then [] else [.diag .pushDropped]
  | .pop _ => if s.canPop then [] else [.diag .popEmpty]
  | .shr _ _ k => if k = 0 then [.diag .shiftFlagUndefined] else []
  | .shl _ _ k => if 16 < shiftCount k then [.diag .shiftFlagUndefined] else []
  | _ => []

/-- `s` with other values of C and Ov. -/
def State.withCOv (s : State) (c ov : Bool) : State := { s with flags := { s.flags with c := c, ov := ov } }

end Sys2Proof.Machine
end

