-- ==== Sys2Proof/Certificates/Slice0/Obligations.lean ====
section
/-! DEFINITION. The statements, from the numbered rules of spec/. Where a statement's instruction has a word format, its
first clause says which words are that instruction, under every class map `cm` (`CLASS_MAP` is a parameter, R9, R66).
A statement that reads memory after a store asks for the canonical form of memory (`Memory.wf`), which
`StepKeepsInvariant` keeps. -/

open Sys2Proof Sys2Proof.Machine

/-! ## Reset, load, run, readout -/

/-- R200, R201, R23: outside a run, `run()` of a loaded machine with a well-formed configuration begins a run, with
every register 0, `pc` 0, `sp` at `STACK_START`, all flags 0, FETCHING and NONE; memory and `IMAGE_END` are as they
were. Two things here are the model's choices: how it tells that a run is in progress, in the premise that none is and
in the clause that one has begun (`State.inRun` over the model's own `runBegun`, log entry 24, DESIGN CHOICE), and that
`IMAGE_END` from 2 on says that a load has succeeded (log entry 12, DESIGN CHOICE). -/
def Obligations.RunResetsAllButMemory : Prop :=
  ∀ s : State, s.cfg.wf = true → 2 ≤ s.imageEnd → s.inRun = false →
    ∃ t, hostRun s = .next t ∧ t.inRun = true ∧ (∀ e, t.reg e = 0) ∧ t.pc = 0 ∧ t.sp = s.cfg.stackStart ∧
      t.flags = ⟨false, false, false, false⟩ ∧ t.engineState = .fetching ∧ t.stopReason = .none ∧
      keepsMemory s t ∧ t.imageEnd = s.imageEnd ∧ t.cfg = s.cfg

/-- R202, R204, U7: a run without a load, a run of an ill-formed configuration and an empty load are turned away. Three
things here are the model's choices: that `IMAGE_END` below 2 says that no load has succeeded (log entry 12, DESIGN
CHOICE); that a class map that is no bijection is refused as a configuration outside D1 is, and that this refusal is
given before the one for a missing load (log entry 19, DEDUCED). -/
def Obligations.HostRefusals : Prop :=
  (∀ s : State, hostLoad [] s = .refused .loadEmpty) ∧
  (∀ s : State, s.cfg.wf = true → s.imageEnd < 2 → hostRun s = .refused .runWithoutLoad) ∧
  (∀ s : State, s.cfg.wf = false → hostRun s = .refused .illFormedConfiguration)

/-- R203, R205: a load writes its pairs in order, low byte first, so that a pair no later pair overlaps reads back;
bytes no pair covers keep their content; `IMAGE_END` is the last pair's address plus 2; nothing else changes. It is
allowed outside a run (R206); how the model tells that a run is in progress is its own choice (log entry 24, DESIGN
CHOICE). That the high byte of a pair at 0xFFFF goes to address 0 is the spec's decision D6. -/
def Obligations.LoadWritesPairsInOrder : Prop :=
  ∀ (s : State) (ps : List (Word × Word)) (p : Word × Word), Memory.wf s.mem = true → s.inRun = false →
    ∃ t, hostLoad (ps ++ [p]) s = .next t ∧ t.imageEnd = p.1.toNat + 2 ∧
      (∀ qs q rs, ps ++ [p] = qs ++ q :: rs → (∀ r ∈ rs, r.1 ≠ q.1 ∧ r.1 ≠ q.1 + 1 ∧ r.1 + 1 ≠ q.1) →
        t.readWord q.1 = q.2) ∧
      (∀ a, (∀ q ∈ ps ++ [p], a ≠ q.1 ∧ a ≠ q.1 + 1) → t.readByte a = s.readByte a) ∧
      t.x = s.x ∧ t.pc = s.pc ∧ t.sp = s.sp ∧ t.flags = s.flags ∧ t.engineState = s.engineState ∧
      t.stopReason = s.stopReason ∧ t.runBegun = s.runBegun ∧ t.cfg = s.cfg ∧ isQuiet s t

/-- R206, R208: in HALTED the readout gives registers, `pc`, `sp`, flags, memory and stop reason; outside HALTED there
is none. -/
def Obligations.ReadoutOnlyInHalted : Prop :=
  (∀ s : State, s.engineState = .halted →
    hostReadout s = .next ⟨s.x, s.pc, s.sp, s.flags, s.mem, s.stopReason⟩) ∧
  (∀ s : State, s.engineState ≠ .halted → hostReadout s = .refused .readoutBeforeHalted)

/-- The machine at `State.reset` meets the invariant. Its configuration, its memory and its `IMAGE_END` are the
model's choices (log entries 1, 2, 12). -/
def Obligations.ResetStateMeetsInvariant : Prop := State.reset.Inv

/-- A load outside a run and the run after it begin in the invariant: whatever memory held before (`MEM_INIT`),
whatever is loaded, whatever well-formed configuration the machine has. How the model tells that a run is in progress is
its own choice (log entry 24, DESIGN CHOICE). -/
def Obligations.EveryRunBeginsInInvariant : Prop :=
  ∀ (s : State) (ps : List (Word × Word)), Memory.wf s.mem = true → s.cfg.wf = true → s.inRun = false → ps ≠ [] →
    ∃ t u, hostLoad ps s = .next t ∧ hostRun t = .next u ∧ u.Inv ∧ u.engineState = .fetching

/-! ## Memory -/

/-- R42, R44: a word read is the byte at its address plus 256 times the byte at the next, modulo 2^16 (the wrap is the
spec's decision D6), at every address, odd or even (R45). -/
def Obligations.WordReadIsLittleEndian : Prop :=
  ∀ (s : State) (a : Word), (s.readWord a).toNat = (s.readByte a).toNat + 256 * (s.readByte (a + 1)).toNat

/-- R43, R44, R46: a word write changes the byte at its address and the byte at the next, and no other. -/
def Obligations.WordWriteChangesTwoBytes : Prop :=
  ∀ (s : State) (a v : Word), Memory.wf s.mem = true →
    ((s.writeWord a v).readByte a).toNat = v.toNat % 256 ∧
    ((s.writeWord a v).readByte (a + 1)).toNat = v.toNat / 256 ∧
    keepsMemoryBut a s (s.writeWord a v)

/-- Every content of the 65536 bytes, so every `MEM_INIT`, is a memory of the model, and only one is (log entry 2). -/
def Obligations.EveryMemoryContentHasOneForm : Prop :=
  ∀ f : Word → Byte, ∃ m : Memory, (Memory.wf m = true ∧ ∀ a : Word, Memory.read m a.toNat = f a) ∧
    ∀ m' : Memory, (Memory.wf m' = true ∧ ∀ a : Word, Memory.read m' a.toNat = f a) → m' = m

/-! ## Encoding -/

/-- Every well-formed instruction, with every operand, decodes from its own encoding, under every class map that is a
bijection. -/
def Obligations.DecodeOfEncode : Prop :=
  ∀ (cm : ClassMap) (i : Instr), cm.wf = true → i.wf = true → decode cm (encode cm i) = i

/-- Encoding the instruction of a word gives the word back but for the don't-care bits of its format, which are 0
(R62, R69, the spec's decision D19). -/
def Obligations.EncodeOfDecode : Prop :=
  ∀ (cm : ClassMap) (w : Word), cm.wf = true → encode cm (decode cm w) = w &&& namedBits (decode cm w)

/-- R72: the decoder is total: every word is a well-formed instruction, and two words that differ in don't-care bits
only are the same one (R69). -/
def Obligations.EveryWordIsOneInstruction : Prop :=
  ∀ (cm : ClassMap) (w : Word), cm.wf = true →
    (decode cm w).wf = true ∧ ∀ v, v &&& namedBits (decode cm w) = w &&& namedBits (decode cm w) → decode cm v = decode cm w

/-- R70: the reserved words are those of class 0000 with `w[11] = 0` and `w[1:0] = 00`, other than 0x0000 (the spec's
decision D4). -/
def Obligations.ReservedWordsExactly : Prop :=
  ∀ (cm : ClassMap) (w : Word),
    (∃ bits, decode cm w = .reserved0 bits) ↔
      (w.toNat / 4096 = 0 ∧ w.getLsbD 11 = false ∧ w.toNat % 4 = 0 ∧ w ≠ 0)

/-- The rows of spec/opcode_table.json under the default class map: a word that matches a row is that row's
instruction, with the row's fields. The class numbers of the ALU and shift rows are the spec's decision D2, the jump
selectors D3, the precedence in class 0000 D4. -/
def Obligations.OpcodeTableRowsDecode : Prop :=
  ∀ w : Word,
    (w = 0x0000 → decode defaultClassMap w = .nop) ∧
    (w &&& 0xF803 = 0x0800 → decode defaultClassMap w = .jmp (fieldImm9 w)) ∧
    (w &&& 0xF803 = 0x0801 → decode defaultClassMap w = .jeq (fieldImm9 w)) ∧
    (w &&& 0xF803 = 0x0802 → decode defaultClassMap w = .jlt (fieldImm9 w)) ∧
    (w &&& 0xF803 = 0x0803 → decode defaultClassMap w = .jgt (fieldImm9 w)) ∧
    (w &&& 0xF803 = 0x0001 → decode defaultClassMap w = .psh (fieldN w)) ∧
    (w &&& 0xF803 = 0x0002 → decode defaultClassMap w = .pop (fieldPopD w)) ∧
    (w &&& 0xF803 = 0x0003 → decode defaultClassMap w = .cmp (fieldM w) (fieldN w)) ∧
    (w &&& 0xF803 = 0x0000 → w ≠ 0 → decode defaultClassMap w = .reserved0 (w.extractLsb' 2 9)) ∧
    (w &&& 0xF800 = 0x1000 → decode defaultClassMap w = .movReg (fieldD w) (fieldM w)) ∧
    (w &&& 0xF800 = 0x1800 → decode defaultClassMap w = .movImm (fieldD w) (fieldMovImm w)) ∧
    (w &&& 0xF800 = 0x2000 → decode defaultClassMap w = .strReg (fieldM w) (fieldN w)) ∧
    (w &&& 0xF800 = 0x2800 → decode defaultClassMap w = .strImm (fieldM w) (fieldStrImm w)) ∧
    (w &&& 0xF000 = 0x3000 → decode defaultClassMap w = .ldr (fieldD w) (fieldM w)) ∧
    (w &&& 0xF000 = 0x4000 → decode defaultClassMap w = .add (fieldD w) (fieldM w) (fieldN w)) ∧
    (w &&& 0xF000 = 0x5000 → decode defaultClassMap w = .sub (fieldD w) (fieldM w) (fieldN w)) ∧
    (w &&& 0xF000 = 0x6000 → decode defaultClassMap w = .mul (fieldD w) (fieldM w) (fieldN w)) ∧
    (w &&& 0xF000 = 0x7000 → decode defaultClassMap w = .and (fieldD w) (fieldM w) (fieldN w)) ∧
    (w &&& 0xF000 = 0x8000 → decode defaultClassMap w = .orr (fieldD w) (fieldM w) (fieldN w)) ∧
    (w &&& 0xF000 = 0x9000 → decode defaultClassMap w = .not (fieldD w) (fieldM w)) ∧
    (w &&& 0xF000 = 0xA000 → decode defaultClassMap w = .xor (fieldD w) (fieldM w) (fieldN w)) ∧
    (w &&& 0xF000 = 0xB000 → decode defaultClassMap w = .shr (fieldD w) (fieldM w) (fieldK w)) ∧
    (w &&& 0xF000 = 0xC000 → decode defaultClassMap w = .shl (fieldD w) (fieldM w) (fieldK w)) ∧
    (w &&& 0xF000 = 0xD000 → decode defaultClassMap w = .ror (fieldD w) (fieldM w)) ∧
    (w &&& 0xF000 = 0xE000 → decode defaultClassMap w = .rol (fieldD w) (fieldM w)) ∧
    (w &&& 0xF000 = 0xF000 → decode defaultClassMap w = .halt)

/-- Words that the spec writes out with their instructions (R71, R102-R108, R120-R124, R135-R137, R150-R153, R160-R163),
under the default class map. The class numbers in 0x4028, 0x9020, 0xB024 and 0xE020 are that map's, the spec's decision
D2 (log entry 4, PRESUMED for NOT's), and the selector in 0x0805 is the spec's decision D3 (log entry 5). -/
def Obligations.SpecWordsDecode : Prop :=
  decodeTableWord 16 0x0805 = some (.jeq 1) ∧ decodeTableWord 16 0x0005 = some (.psh 1) ∧
  decodeTableWord 16 0x0202 = some (.pop 2) ∧ decodeTableWord 16 0x0007 = some (.cmp 0 1) ∧
  decodeTableWord 16 0x1160 = some (.movReg 1 3) ∧ decodeTableWord 16 0x2D2B = some (.strImm 1 171) ∧
  decodeTableWord 16 0x3340 = some (.ldr 3 2) ∧ decodeTableWord 16 0x4028 = some (.add 0 1 2) ∧
  decodeTableWord 16 0x9020 = some (.not 0 1) ∧ decodeTableWord 16 0xB024 = some (.shr 0 1 4) ∧
  decodeTableWord 16 0xE020 = some (.rol 0 1) ∧ decodeTableWord 16 0xFABC = some .halt

/-- R60: an instruction is two bytes, the low byte first; the decoder consumes exactly those, and rejects fewer. -/
def Obligations.InstructionIsTwoBytes : Prop :=
  (∀ (cm : ClassMap) (lo hi : Byte) (rest : List Byte),
    decodeBytes cm (lo :: hi :: rest) = .ok (decode cm (BitVec.ofNat 16 (lo.toNat + 256 * hi.toNat)), rest)) ∧
  (∀ cm : ClassMap, decodeBytes cm [] = .error .truncated) ∧
  (∀ (cm : ClassMap) (b : Byte), decodeBytes cm [b] = .error .truncated)

/-! ## The engine loop -/

/-- R83-R85, R87: when the engine is in FETCHING, `pc` is below `IMAGE_END` and the word at `pc` decodes to `i`, the
step is the meaning of `i`, run with `pc` advanced by 2 modulo 2^16 and the engine in EXECUTING (still in DECODING for
the two stops), and the engine is back in FETCHING after it unless it stopped. The model's `runBegun` is true from
then on (log entry 24). -/
def Obligations.StepRunsDecodedInstruction : Prop :=
  ∀ (s : State) (i : Instr), s.engineState = .fetching → s.pc.toNat < s.imageEnd →
    decode s.cfg.classMap (s.readWord s.pc) = i →
    step s = finishedOutcome
      (exec i { s with
        pc := s.pc + 2
        engineState := if entersExecuting i then .executing else .decoding
        runBegun := true }) ∧
    ∀ t : State, t.finished = if t.engineState = .halted then t else { t with engineState := .fetching }

/-- R82, R184: in FETCHING with `pc >= IMAGE_END` the step stops with END_OF_IMAGE and changes nothing else, whatever
word stands at `pc` (that the test comes before the fetch is the spec's decision D13). -/
def Obligations.EndOfImageStops : Prop :=
  ∀ s : State, s.engineState = .fetching → s.imageEnd ≤ s.pc.toNat →
    ∃ t, step s = .next t ∧ t.engineState = .halted ∧ t.stopReason = .endOfImage ∧ t.x = s.x ∧ t.pc = s.pc ∧
      t.sp = s.sp ∧ t.flags = s.flags ∧ t.mem = s.mem ∧ t.imageEnd = s.imageEnd ∧ t.runBegun = s.runBegun ∧ t.cfg = s.cfg ∧
      isQuiet s t

/-- R86: HALTED has no step; after RESERVED_ENCODING the reason is the fault R181 asks for. R81: nor has a state in
the middle of an instruction. -/
def Obligations.HaltedHasNoStep : Prop :=
  (∀ s : State, s.engineState = .halted → s.stopReason ≠ .reservedEncoding → step s = .fault .halted) ∧
  (∀ s : State, s.engineState = .halted → s.stopReason = .reservedEncoding → step s = .fault .reservedEncoding) ∧
  (∀ s : State, s.engineState = .decoding ∨ s.engineState = .executing → step s = .fault .notFetching)

/-- R27, R31, R81, R181: every step keeps the invariant: memory canonical, `sp` in the stack's range at an even
distance from `STACK_START`, Z and S not both set, the engine in FETCHING with reason NONE or in HALTED with another. -/
def Obligations.StepKeepsInvariant : Prop :=
  ∀ s t : State, s.Inv → step s = .next t → t.Inv

/-- R181, R85: from FETCHING every step has a next state, and it is HALTED in exactly the three cases of R181, with
their reasons and with `pc` as R181 gives it. -/
def Obligations.EngineHaltsInExactlyThreeCases : Prop :=
  ∀ s : State, s.engineState = .fetching → ∃ t, step s = .next t ∧
    (s.imageEnd ≤ s.pc.toNat → t.engineState = .halted ∧ t.stopReason = .endOfImage ∧ t.pc = s.pc) ∧
    (s.pc.toNat < s.imageEnd → s.fetchedInstr = .halt →
      t.engineState = .halted ∧ t.stopReason = .haltInstruction ∧ t.pc = s.pc + 2) ∧
    (s.pc.toNat < s.imageEnd → (∃ bits, s.fetchedInstr = .reserved0 bits) →
      t.engineState = .halted ∧ t.stopReason = .reservedEncoding ∧ t.pc = s.pc + 2) ∧
    (s.pc.toNat < s.imageEnd → s.fetchedInstr ≠ .halt → (¬ ∃ bits, s.fetchedInstr = .reserved0 bits) →
      t.engineState = .fetching ∧ t.stopReason = s.stopReason)

/-- R91: a run whose `IMAGE_END` is at most 0xFDFF stops after at most `ceil(IMAGE_END / 2)` instructions (and the step
that stops it), whatever the program does to memory, its own words included. -/
def Obligations.BoundedImageRunHalts : Prop :=
  ∀ s : State, s.engineState = .fetching → s.pc = 0 → s.imageEnd ≤ 0xFDFF →
    ∃ k t, k ≤ (s.imageEnd + 1) / 2 + 1 ∧ stepMany k s = .next t ∧ t.engineState = .halted

/-- R91, U9: past 0xFDFF a run need not end: some machine in the invariant steps for ever. -/
def Obligations.LongImageRunMayNotHalt : Prop :=
  ∃ s : State, s.Inv ∧ 0xFDFF < s.imageEnd ∧ ∀ k, ∃ t, stepMany k s = .next t ∧ t.engineState = .fetching

/-- R33, R35: no step changes `IMAGE_END` or a parameter. -/
def Obligations.StepKeepsImageEndAndParameters : Prop :=
  ∀ s t : State, step s = .next t → t.imageEnd = s.imageEnd ∧ t.cfg = s.cfg

/-- R55, R213: a store into the word after the storing instruction is what the next fetch reads, while the storing
instruction itself runs as it was fetched. -/
def Obligations.StoreSeenByNextFetch : Prop :=
  ∀ (s : State) (m n : Reg), Memory.wf s.mem = true → s.engineState = .fetching → s.pc.toNat < s.imageEnd →
    s.fetchedInstr = .strReg m n → s.reg m = s.pc + 2 →
    ∃ t, step s = .next t ∧ t.pc = s.pc + 2 ∧ t.fetchedWord = s.reg n ∧ t.engineState = .fetching

/-! ## What an instruction may change, over all instructions -/

/-- R85, R180: every instruction has a next state from every state, and none that is executed stops the engine. -/
def Obligations.NoInstructionTraps : Prop :=
  ∀ (i : Instr) (s : State), ∃ t, exec i s = .next t ∧
    (entersExecuting i = true → t.engineState = s.engineState ∧ t.stopReason = s.stopReason)

/-- R22: an instruction writes no general register but the one R22's table gives it, and POP writes it only when the
stack is not empty. -/
def Obligations.RegistersWrittenByTable : Prop :=
  ∀ (i : Instr) (s t : State), exec i s = .next t →
    (∀ e, regWritten i ≠ some e → t.reg e = s.reg e) ∧
    (∀ d, i = .pop d → s.canPop = false → keepsRegs s t)

/-- R29: an instruction leaves unchanged every flag that R29's table does not tick for it. -/
def Obligations.FlagsWrittenByTable : Prop :=
  ∀ (i : Instr) (s t : State), exec i s = .next t →
    (writesC i = false → t.flags.c = s.flags.c) ∧ (writesOv i = false → t.flags.ov = s.flags.ov) ∧
    (writesZS i = false → t.flags.z = s.flags.z ∧ t.flags.s = s.flags.s)

/-- R26: only PSH (minus 2, after a successful push) and POP (plus 2, before a successful pop) change `sp`. -/
def Obligations.StackPointerOnlyByPshPop : Prop :=
  ∀ (i : Instr) (s t : State), exec i s = .next t →
    (∀ n, i = .psh n → t.sp = if s.canPush then s.sp - 2 else s.sp) ∧
    (∀ d, i = .pop d → t.sp = if s.canPop then s.sp + 2 else s.sp) ∧
    ((∀ n, i ≠ .psh n) → (∀ d, i ≠ .pop d) → t.sp = s.sp)

/-- R25: no instruction outside the jump family changes `pc` (beyond the fetch's advance). -/
def Obligations.ProgramCounterOnlyByJumps : Prop :=
  ∀ (i : Instr) (s t : State), exec i s = .next t → isJump i = false → t.pc = s.pc

/-- R47, R89: an instruction changes no byte of memory but the two of the word it stores, and only STR and a
successful PSH store. -/
def Obligations.MemoryOnlyByStores : Prop :=
  ∀ (i : Instr) (s t : State), Memory.wf s.mem = true → exec i s = .next t →
    (∀ a, storeAddr s i = some a → keepsMemoryBut a s t) ∧ (storeAddr s i = none → keepsMemory s t)

/-- R17, R182, R184: draws are taken and events emitted only where the spec lists them, at most one event by an
instruction. -/
def Obligations.DrawsAndEventsAsListed : Prop :=
  ∀ (i : Instr) (s t : State), exec i s = .next t →
    t.draws = s.draws + drawsTaken i ∧ t.events = s.events ++ eventsOf s i ∧ (eventsOf s i).length ≤ 1

/-- R30: no instruction reads C or Ov: with other values of the two, every instruction does the same to everything but
them (and to a dump, which shows them), and writes the same values to them where it writes them. -/
def Obligations.NoInstructionReadsCOrOv : Prop :=
  ∀ (i : Instr) (s t : State) (c ov : Bool), exec i s = .next t →
    ∃ u, exec i (s.withCOv c ov) = .next u ∧ u.x = t.x ∧ u.pc = t.pc ∧ u.sp = t.sp ∧ u.mem = t.mem ∧
      u.flags.z = t.flags.z ∧ u.flags.s = t.flags.s ∧ keepsEngine t u ∧ u.draws = t.draws ∧
      (i ≠ .nop → u.events = t.events) ∧
      (u.flags.c = if writesC i then t.flags.c else c) ∧ (u.flags.ov = if writesOv i then t.flags.ov else ov)

/-! ## Class 0000 -/

/-- R100: NOP changes no state; with `NOP_DUMP` it hands the host a dump of the state it runs in. -/
def Obligations.NopOnlyDumps : Prop :=
  (∀ cm : ClassMap, decode cm 0x0000 = .nop) ∧
  ∀ s : State, ∃ t, exec .nop s = .next t ∧ keepsRegs s t ∧ t.flags = s.flags ∧ t.pc = s.pc ∧ t.sp = s.sp ∧
    keepsMemory s t ∧ keepsEngine s t ∧ t.draws = s.draws ∧
    t.events = if s.cfg.nopDump then s.events ++ [.dump ⟨s.x, s.pc, s.sp, s.flags, s.mem⟩] else s.events

/-- R101-R105: a jump adds its unsigned 9-bit immediate to the advanced `pc`, modulo 2^16, when its condition on Z and S
holds, and otherwise leaves `pc`; it changes nothing else. The selector values are the spec's decision D3. -/
def Obligations.JumpsAddWhenConditionHolds : Prop :=
  (∀ (cm : ClassMap) (w : Word),
    (w &&& 0xF803 = 0x0800 → decode cm w = .jmp (fieldImm9 w)) ∧
    (w &&& 0xF803 = 0x0801 → decode cm w = .jeq (fieldImm9 w)) ∧
    (w &&& 0xF803 = 0x0802 → decode cm w = .jlt (fieldImm9 w)) ∧
    (w &&& 0xF803 = 0x0803 → decode cm w = .jgt (fieldImm9 w))) ∧
  ∀ (s : State) (imm9 : BitVec 9) (i : Instr) (taken : Prop),
    ((i = .jmp imm9 ∧ (taken ↔ True)) ∨
     (i = .jeq imm9 ∧ (taken ↔ s.flags.z = true ∧ s.flags.s = false)) ∨
     (i = .jlt imm9 ∧ (taken ↔ s.flags.z = false ∧ s.flags.s = true)) ∨
     (i = .jgt imm9 ∧ (taken ↔ s.flags.z = false ∧ s.flags.s = false))) →
    ∃ t, exec i s = .next t ∧ (taken → t.pc.toNat = (s.pc.toNat + imm9.toNat) % 65536) ∧ (¬ taken → t.pc = s.pc) ∧
      keepsRegs s t ∧ t.flags = s.flags ∧ t.sp = s.sp ∧ keepsMemory s t ∧ keepsEngine s t ∧ isQuiet s t

/-- R106: PSH above the floor writes the register's word at `sp`, low byte first, and then lowers `sp` by 2; on a full
stack it changes no state and says so. Nothing else changes. The event's name is the spec's decision D21. -/
def Obligations.PushStoresThenDecrements : Prop :=
  (∀ (cm : ClassMap) (w : Word), w &&& 0xF803 = 0x0001 → decode cm w = .psh (fieldN w)) ∧
  ∀ (s : State) (n : Reg), Memory.wf s.mem = true →
    ∃ t, exec (.psh n) s = .next t ∧ keepsRegs s t ∧ t.flags = s.flags ∧ t.pc = s.pc ∧ keepsEngine s t ∧
      t.draws = s.draws ∧
      (s.cfg.floor < (s.sp.toNat : Int) →
        (t.readByte s.pushAddr).toNat = (s.reg n).toNat % 256 ∧
        (t.readByte (s.pushAddr + 1)).toNat = (s.reg n).toNat / 256 ∧
        keepsMemoryBut s.pushAddr s t ∧ t.sp = s.sp - 2 ∧ t.events = s.events) ∧
      ((s.sp.toNat : Int) ≤ s.cfg.floor →
        keepsMemory s t ∧ t.sp = s.sp ∧ t.events = s.events ++ [.diag .pushDropped])

/-- R107: POP between the floor and `STACK_START` raises `sp` by 2 and then reads the word at the new `sp` into R0..R3;
otherwise it changes no state and says so. Nothing else changes. -/
def Obligations.PopIncrementsThenLoads : Prop :=
  (∀ (cm : ClassMap) (w : Word), w &&& 0xF803 = 0x0002 → decode cm w = .pop (fieldPopD w)) ∧
  (∀ d : PopReg, (popDest d).val = d.val) ∧
  ∀ (s : State) (d : PopReg),
    ∃ t, exec (.pop d) s = .next t ∧ keepsRegsBut (popDest d) s t ∧ t.flags = s.flags ∧ t.pc = s.pc ∧
      keepsMemory s t ∧ keepsEngine s t ∧ t.draws = s.draws ∧
      (s.cfg.floor ≤ (s.sp.toNat : Int) ∧ s.sp.toNat < s.cfg.stackStart.toNat →
        t.sp = s.sp + 2 ∧ t.events = s.events ∧
        (t.reg (popDest d)).toNat = (s.readByte (s.sp + 2)).toNat + 256 * (s.readByte (s.sp + 2 + 1)).toNat) ∧
      (¬ (s.cfg.floor ≤ (s.sp.toNat : Int) ∧ s.sp.toNat < s.cfg.stackStart.toNat) →
        t.sp = s.sp ∧ t.events = s.events ++ [.diag .popEmpty] ∧ t.reg (popDest d) = s.reg (popDest d))

/-- R108: CMP sets Z when the registers are equal and S when the first is less, unsigned, and changes nothing else. -/
def Obligations.CompareSetsZeroAndSign : Prop :=
  (∀ (cm : ClassMap) (w : Word), w &&& 0xF803 = 0x0003 → decode cm w = .cmp (fieldM w) (fieldN w)) ∧
  ∀ (s : State) (m n : Reg), ∃ t, exec (.cmp m n) s = .next t ∧
    (t.flags.z = true ↔ (s.reg m).toNat = (s.reg n).toNat) ∧
    (t.flags.s = true ↔ (s.reg m).toNat < (s.reg n).toNat) ∧
    t.flags.c = s.flags.c ∧ t.flags.ov = s.flags.ov ∧ keepsRegs s t ∧ keepsBesidesRegsFlags s t

/-- R70, R84: a reserved word enters HALTED with RESERVED_ENCODING and changes nothing else (the spec's decision D4; the
fault R181 asks for is the step after it, log entry 6). -/
def Obligations.ReservedWordStops : Prop :=
  ∀ (s : State) (bits : BitVec 9), ∃ t, exec (.reserved0 bits) s = .next t ∧ t.engineState = .halted ∧
    t.stopReason = .reservedEncoding ∧ keepsRegs s t ∧ t.flags = s.flags ∧ t.pc = s.pc ∧ t.sp = s.sp ∧
    keepsMemory s t ∧ t.imageEnd = s.imageEnd ∧ t.runBegun = s.runBegun ∧ t.cfg = s.cfg ∧ isQuiet s t ∧
    step t = .fault .reservedEncoding

/-- R71, R84: every word of class 1111, whatever its low 12 bits, is HALT, which enters HALTED with HALT_INSTRUCTION and
changes nothing else; R86: HALTED has no step. That a step asked of it answers the fault `halted` is the model's choice
(log entry 7, DEDUCED). -/
def Obligations.HaltStops : Prop :=
  (∀ (cm : ClassMap) (w : Word), w.toNat / 4096 = 15 → decode cm w = .halt) ∧
  ∀ s : State, ∃ t, exec .halt s = .next t ∧ t.engineState = .halted ∧ t.stopReason = .haltInstruction ∧
    keepsRegs s t ∧ t.flags = s.flags ∧ t.pc = s.pc ∧ t.sp = s.sp ∧ keepsMemory s t ∧ t.imageEnd = s.imageEnd ∧
    t.runBegun = s.runBegun ∧ t.cfg = s.cfg ∧ isQuiet s t ∧ step t = .fault .halted

/-! ## Data movement -/

/-- R120: MOV Rd, Rm copies the register and changes nothing else. -/
def Obligations.MovCopiesRegister : Prop :=
  (∀ (cm : ClassMap) (w : Word), w &&& 0xF800 = 0x1000 → decode cm w = .movReg (fieldD w) (fieldM w)) ∧
  ∀ (s : State) (d m : Reg), ∃ t, exec (.movReg d m) s = .next t ∧ t.reg d = s.reg m ∧ keepsRegsBut d s t ∧
    t.flags = s.flags ∧ keepsBesidesRegsFlags s t

/-- R121: MOV Rd, #imm8 loads the zero-extended immediate and changes nothing else. -/
def Obligations.MovLoadsImmediate : Prop :=
  (∀ (cm : ClassMap) (w : Word), w &&& 0xF800 = 0x1800 → decode cm w = .movImm (fieldD w) (fieldMovImm w)) ∧
  ∀ (s : State) (d : Reg) (imm8 : BitVec 8), ∃ t, exec (.movImm d imm8) s = .next t ∧
    (t.reg d).toNat = imm8.toNat ∧ keepsRegsBut d s t ∧ t.flags = s.flags ∧ keepsBesidesRegsFlags s t

/-- R122: STR [Rm], Rn stores the register's word at the base register's value, low byte first, the second byte's
address modulo 2^16, and changes nothing else. -/
def Obligations.StrStoresRegister : Prop :=
  (∀ (cm : ClassMap) (w : Word), w &&& 0xF800 = 0x2000 → decode cm w = .strReg (fieldM w) (fieldN w)) ∧
  ∀ (s : State) (m n : Reg), Memory.wf s.mem = true → ∃ t, exec (.strReg m n) s = .next t ∧
    s.memAddr m = s.reg m ∧
    (t.readByte (s.memAddr m)).toNat = (s.reg n).toNat % 256 ∧
    (t.readByte (s.memAddr m + 1)).toNat = (s.reg n).toNat / 256 ∧
    keepsMemoryBut (s.memAddr m) s t ∧ keepsRegs s t ∧ t.flags = s.flags ∧ t.pc = s.pc ∧ t.sp = s.sp ∧
    keepsEngine s t ∧ isQuiet s t

/-- R123: STR [Rm], #imm8 stores the word whose low byte is the immediate and whose high byte is 0, and changes nothing
else; the immediate is `w[10:8] : w[4:0]`. -/
def Obligations.StrStoresImmediate : Prop :=
  (∀ (cm : ClassMap) (w : Word), w &&& 0xF800 = 0x2800 → decode cm w = .strImm (fieldM w) (fieldStrImm w)) ∧
  (∀ w : Word, (fieldStrImm w).toNat = w.toNat / 256 % 8 * 32 + w.toNat % 32) ∧
  ∀ (s : State) (m : Reg) (imm8 : BitVec 8), Memory.wf s.mem = true → ∃ t, exec (.strImm m imm8) s = .next t ∧
    s.memAddr m = s.reg m ∧
    t.readByte (s.memAddr m) = imm8 ∧ t.readByte (s.memAddr m + 1) = 0 ∧
    keepsMemoryBut (s.memAddr m) s t ∧ keepsRegs s t ∧ t.flags = s.flags ∧ t.pc = s.pc ∧ t.sp = s.sp ∧
    keepsEngine s t ∧ isQuiet s t

/-- R124: LDR Rd, [Rm] loads the little-endian word at the base register's value, read before the destination is
written, and changes nothing else. -/
def Obligations.LdrLoadsWord : Prop :=
  (∀ (cm : ClassMap) (w : Word), w &&& 0xF000 = 0x3000 → decode cm w = .ldr (fieldD w) (fieldM w)) ∧
  ∀ (s : State) (d m : Reg), ∃ t, exec (.ldr d m) s = .next t ∧
    (t.reg d).toNat = (s.readByte (s.reg m)).toNat + 256 * (s.readByte (s.reg m + 1)).toNat ∧
    keepsRegsBut d s t ∧ t.flags = s.flags ∧ keepsBesidesRegsFlags s t

/-! ## Arithmetic. The class numbers are `CLASS_MAP`'s (default: the spec's decision D2, `OpcodeTableRowsDecode`). -/

/-- R135: ADD's result, its four flags, and that nothing else changes. -/
def Obligations.AddResultAndFlags : Prop :=
  (∀ (cm : ClassMap) (w : Word), cm.opAt (fieldClass w) = some .add →
    decode cm w = .add (fieldD w) (fieldM w) (fieldN w)) ∧
  ∀ (s : State) (d m n : Reg), ∃ t, exec (.add d m n) s = .next t ∧
    (t.reg d).toNat = ((s.reg m).toNat + (s.reg n).toNat) % 65536 ∧
    (t.flags.c = true ↔ (s.reg m).toNat > 0xFFFF - (s.reg n).toNat) ∧
    (t.flags.z = true ↔ (t.reg d).toNat = 0) ∧ t.flags.s = (t.reg d).getLsbD 15 ∧
    (t.flags.ov = true ↔ (s.reg m).getLsbD 15 = (s.reg n).getLsbD 15 ∧
      (t.reg d).getLsbD 15 ≠ (s.reg m).getLsbD 15) ∧
    keepsRegsBut d s t ∧ keepsBesidesRegsFlags s t

/-- R136: SUB's result, its four flags (C is a borrow), and that nothing else changes. -/
def Obligations.SubResultAndFlags : Prop :=
  (∀ (cm : ClassMap) (w : Word), cm.opAt (fieldClass w) = some .sub →
    decode cm w = .sub (fieldD w) (fieldM w) (fieldN w)) ∧
  ∀ (s : State) (d m n : Reg), ∃ t, exec (.sub d m n) s = .next t ∧
    ((t.reg d).toNat : Int) = (((s.reg m).toNat : Int) - ((s.reg n).toNat : Int)) % 65536 ∧
    (t.flags.c = true ↔ (s.reg m).toNat < (s.reg n).toNat) ∧
    (t.flags.z = true ↔ (t.reg d).toNat = 0) ∧ t.flags.s = (t.reg d).getLsbD 15 ∧
    (t.flags.ov = true ↔ (s.reg m).getLsbD 15 ≠ (s.reg n).getLsbD 15 ∧
      (t.reg d).getLsbD 15 ≠ (s.reg m).getLsbD 15) ∧
    keepsRegsBut d s t ∧ keepsBesidesRegsFlags s t

/-- R137: MUL's result, its four flags (C is ADD's test, Ov compares the second operand's sign), and that nothing else
changes. -/
def Obligations.MulResultAndFlags : Prop :=
  (∀ (cm : ClassMap) (w : Word), cm.opAt (fieldClass w) = some .mul →
    decode cm w = .mul (fieldD w) (fieldM w) (fieldN w)) ∧
  ∀ (s : State) (d m n : Reg), ∃ t, exec (.mul d m n) s = .next t ∧
    (t.reg d).toNat = ((s.reg m).toNat * (s.reg n).toNat) % 65536 ∧
    (t.flags.c = true ↔ (s.reg m).toNat > 0xFFFF - (s.reg n).toNat) ∧
    (t.flags.z = true ↔ (t.reg d).toNat = 0) ∧ t.flags.s = (t.reg d).getLsbD 15 ∧
    (t.flags.ov = true ↔ (s.reg m).getLsbD 15 = (s.reg n).getLsbD 15 ∧
      (s.reg n).getLsbD 15 ≠ (t.reg d).getLsbD 15) ∧
    keepsRegsBut d s t ∧ keepsBesidesRegsFlags s t

/-- R139: ADD followed by SUB of the same register gives the first operand back, for all register pairs, provided the
register is unchanged in between. -/
def Obligations.AddSubRoundTrip : Prop :=
  (∀ a b : Nat, a < 65536 → b < 65536 →
    ((((a + b) % 65536 : Nat) : Int) - (b : Int)) % 65536 = (a : Int)) ∧
  ∀ (s : State) (d e m n : Reg), d ≠ n →
    ∃ t, execAll [.add d m n, .sub e d n] s = .next t ∧ t.reg e = s.reg m

/-- R140 (the spec's derivation from R135 and R136): after ADD and SUB, C is the unsigned carry or borrow, and Ov says
exactly when the two's complement result lies outside -32768..32767. -/
def Obligations.AddSubFlagsMeanOverflow : Prop :=
  ∀ (s : State) (d m n : Reg),
    (∃ t, exec (.add d m n) s = .next t ∧
      (t.flags.c = true ↔ 65536 ≤ (s.reg m).toNat + (s.reg n).toNat) ∧
      (t.flags.ov = true ↔ (s.reg m).toInt + (s.reg n).toInt < -32768 ∨ 32767 < (s.reg m).toInt + (s.reg n).toInt)) ∧
    (∃ t, exec (.sub d m n) s = .next t ∧
      (t.flags.c = true ↔ (s.reg m).toNat < (s.reg n).toNat) ∧
      (t.flags.ov = true ↔ (s.reg m).toInt - (s.reg n).toInt < -32768 ∨ 32767 < (s.reg m).toInt - (s.reg n).toInt))

/-! ## Logic -/

/-- R150-R153: AND, ORR, XOR and NOT, bit by bit; Z and S from the result, C and Ov unchanged, nothing else changes. -/
def Obligations.LogicResultsAndFlags : Prop :=
  (∀ (cm : ClassMap) (w : Word),
    (cm.opAt (fieldClass w) = some .and → decode cm w = .and (fieldD w) (fieldM w) (fieldN w)) ∧
    (cm.opAt (fieldClass w) = some .orr → decode cm w = .orr (fieldD w) (fieldM w) (fieldN w)) ∧
    (cm.opAt (fieldClass w) = some .xor → decode cm w = .xor (fieldD w) (fieldM w) (fieldN w)) ∧
    (cm.opAt (fieldClass w) = some .not → decode cm w = .not (fieldD w) (fieldM w))) ∧
  ∀ (s : State) (d m n : Reg) (i : Instr) (bit : Bool → Bool → Bool),
    ((i = .and d m n ∧ bit = fun a b => a && b) ∨ (i = .orr d m n ∧ bit = fun a b => a || b) ∨
     (i = .xor d m n ∧ bit = fun a b => a != b) ∨ (i = .not d m ∧ bit = fun a _ => !a)) →
    ∃ t, exec i s = .next t ∧
      (∀ j, j < 16 → (t.reg d).getLsbD j = bit ((s.reg m).getLsbD j) ((s.reg n).getLsbD j)) ∧
      (t.flags.z = true ↔ (t.reg d).toNat = 0) ∧ t.flags.s = (t.reg d).getLsbD 15 ∧
      t.flags.c = s.flags.c ∧ t.flags.ov = s.flags.ov ∧ keepsRegsBut d s t ∧ keepsBesidesRegsFlags s t

/-! ## Shift and rotate -/

/-- R160: SHR by every count 0..31: the result, Z, S, Ov unchanged; C is bit `k - 1` for 1..16, 0 beyond, and a free
draw for 0, whatever its value (log entry 9); nothing else changes. -/
def Obligations.ShrResultAndFlags : Prop :=
  (∀ (cm : ClassMap) (w : Word), cm.opAt (fieldClass w) = some .shr →
    decode cm w = .shr (fieldD w) (fieldM w) (fieldK w)) ∧
  ∀ (s : State) (d m : Reg) (k : BitVec 5), ∃ t, exec (.shr d m k) s = .next t ∧
    (t.reg d).toNat = (s.reg m).toNat / 2 ^ k.toNat ∧
    (t.flags.z = true ↔ (t.reg d).toNat = 0) ∧ t.flags.s = (t.reg d).getLsbD 15 ∧ t.flags.ov = s.flags.ov ∧
    (k.toNat = 0 → t.flags.c = Config.drawBit s.draws ∧ t.draws = s.draws + 1 ∧
      t.events = s.events ++ [.diag .shiftFlagUndefined]) ∧
    (1 ≤ k.toNat ∧ k.toNat ≤ 16 → t.flags.c = (s.reg m).getLsbD (k.toNat - 1) ∧ isQuiet s t) ∧
    (17 ≤ k.toNat → t.flags.c = false ∧ isQuiet s t) ∧
    keepsRegsBut d s t ∧ t.pc = s.pc ∧ t.sp = s.sp ∧ keepsMemory s t ∧ keepsEngine s t

/-- R161: SHL by every count 0..31: the result, Z, S; C and Ov are 0 for 0, bit `16 - k` for 1..16, and two independent
free draws beyond, whatever their values (log entries 9, 10); nothing else changes. -/
def Obligations.ShlResultAndFlags : Prop :=
  (∀ (cm : ClassMap) (w : Word), cm.opAt (fieldClass w) = some .shl →
    decode cm w = .shl (fieldD w) (fieldM w) (fieldK w)) ∧
  ∀ (s : State) (d m : Reg) (k : BitVec 5), ∃ t, exec (.shl d m k) s = .next t ∧
    (t.reg d).toNat = ((s.reg m).toNat * 2 ^ k.toNat) % 65536 ∧
    (t.flags.z = true ↔ (t.reg d).toNat = 0) ∧ t.flags.s = (t.reg d).getLsbD 15 ∧
    (k.toNat = 0 → t.flags.c = false ∧ t.flags.ov = false ∧ isQuiet s t) ∧
    (1 ≤ k.toNat ∧ k.toNat ≤ 16 → t.flags.c = (s.reg m).getLsbD (16 - k.toNat) ∧
      t.flags.ov = (s.reg m).getLsbD (16 - k.toNat) ∧ isQuiet s t) ∧
    (17 ≤ k.toNat → t.flags.c = Config.drawBit s.draws ∧ t.flags.ov = Config.drawBit (s.draws + 1) ∧
      t.draws = s.draws + 2 ∧ t.events = s.events ++ [.diag .shiftFlagUndefined]) ∧
    keepsRegsBut d s t ∧ t.pc = s.pc ∧ t.sp = s.sp ∧ keepsMemory s t ∧ keepsEngine s t

/-- R162, R163: ROR and ROL by one bit: the bit rotated out enters at the other end and becomes C; Z and S from the
result, Ov unchanged, nothing else changes. -/
def Obligations.RotateResultsAndFlags : Prop :=
  (∀ (cm : ClassMap) (w : Word),
    (cm.opAt (fieldClass w) = some .ror → decode cm w = .ror (fieldD w) (fieldM w)) ∧
    (cm.opAt (fieldClass w) = some .rol → decode cm w = .rol (fieldD w) (fieldM w))) ∧
  ∀ (s : State) (d m : Reg) (i : Instr) (r c : Nat),
    ((i = .ror d m ∧ c = (s.reg m).toNat % 2 ∧ r = (s.reg m).toNat / 2 + c * 32768) ∨
     (i = .rol d m ∧ c = (s.reg m).toNat / 32768 ∧ r = (s.reg m).toNat * 2 % 65536 + c)) →
    ∃ t, exec i s = .next t ∧ (t.reg d).toNat = r ∧ (t.flags.c = true ↔ c = 1) ∧
      (t.flags.z = true ↔ (t.reg d).toNat = 0) ∧ t.flags.s = (t.reg d).getLsbD 15 ∧ t.flags.ov = s.flags.ov ∧
      keepsRegsBut d s t ∧ keepsBesidesRegsFlags s t

/-- R162, R163: sixteen RORs return the register's original value, and ROL undoes ROR. -/
def Obligations.RotationsReturn : Prop :=
  ∀ (s : State) (d : Reg),
    (∃ t, execAll (List.replicate 16 (.ror d d)) s = .next t ∧ t.reg d = s.reg d) ∧
    (∃ t, execAll [.ror d d, .rol d d] s = .next t ∧ t.reg d = s.reg d)

/-! ## Laws of the stack and of memory -/

/-- R109 (the spec's derivation): a push that is not dropped and the pop after it bring the word to the popped register
and `sp` back. -/
def Obligations.PushPopRoundTrip : Prop :=
  ∀ (s : State) (n : Reg) (d : PopReg), Memory.wf s.mem = true → s.cfg.wf = true →
    s.cfg.floor + 2 ≤ (s.sp.toNat : Int) → s.sp.toNat ≤ s.cfg.stackStart.toNat →
    ∃ t, execAll [.psh n, .pop d] s = .next t ∧ t.reg (popDest d) = s.reg n ∧ t.sp = s.sp ∧
      keepsRegsBut (popDest d) s t

/-- R110 (the spec's derivation): pushes that all succeed, and then as many pops, give the pushed words in reverse order
and bring `sp` back. -/
def Obligations.StackIsLastInFirstOut : Prop :=
  ∀ (s : State) (ns : List Reg), Memory.wf s.mem = true → s.cfg.wf = true →
    s.cfg.floor + 2 * (ns.length : Int) ≤ (s.sp.toNat : Int) → s.sp.toNat ≤ s.cfg.stackStart.toNat →
    ∃ t, execAll (ns.map Instr.psh) s = .next t ∧ popsGive (ns.reverse.map s.reg) s.sp t

/-- R106 (the spec's derivation): from an empty stack exactly `STACK_SIZE / 2` pushes succeed, and every later one is
dropped and reported. -/
def Obligations.StackHoldsHalfItsSize : Prop :=
  ∀ (s : State) (ns : List Reg), s.cfg.wf = true → s.sp = s.cfg.stackStart →
    ∃ t, execAll (ns.map Instr.psh) s = .next t ∧
      t.sp.toNat = s.cfg.stackStart.toNat - 2 * min ns.length (s.cfg.stackSize / 2) ∧
      t.events = s.events ++ List.replicate (ns.length - s.cfg.stackSize / 2) (.diag .pushDropped)

/-- R125 (the spec's derivation): a word stored by STR is what LDR loads from the same address in any later state in
which its two bytes were not written. -/
def Obligations.StoreThenLoad : Prop :=
  ∀ (s : State) (m n : Reg), Memory.wf s.mem = true →
    ∃ t, exec (.strReg m n) s = .next t ∧
      ∀ (u : State) (d k : Reg), u.reg k = s.reg m → u.readByte (s.reg m) = t.readByte (s.reg m) →
        u.readByte (s.reg m + 1) = t.readByte (s.reg m + 1) →
        ∃ v, exec (.ldr d k) u = .next v ∧ v.reg d = s.reg n

/-! ## The host during a run -/

/-- R206, R207 and spec/60_exceptions.md R183: the host cannot disturb a run. `run()` begins one; every step leaves one
in progress unless the engine has stopped; while one is in progress no load and no `run()` is performed and there is no
readout; in HALTED the host may load and run again. That a request during a run is answered by a refusal, given after
those of an ill-formed configuration and of a missing load, and how the model tells that a run is in progress, are the
model's choices (log entries 19, 24); so is that `IMAGE_END` from 2 on says that a load has succeeded (log entry 12). -/
def Obligations.HostCannotDisturbRun : Prop :=
  (∀ s t : State, hostRun s = .next t → t.inRun = true) ∧
  (∀ s t : State, step s = .next t → (t.inRun = true ↔ t.engineState ≠ .halted)) ∧
  (∀ s : State, s.inRun = true →
    (∀ ps, ps ≠ [] → hostLoad ps s = .refused .runInProgress) ∧ (∀ t, hostRun s ≠ .next t) ∧
    (s.cfg.wf = true → 2 ≤ s.imageEnd → hostRun s = .refused .runInProgress) ∧
    hostReadout s = .refused .readoutBeforeHalted) ∧
  (∀ s : State, s.engineState = .halted →
    (∀ ps, ps ≠ [] → ∃ t, hostLoad ps s = .next t) ∧
    (s.cfg.wf = true → 2 ≤ s.imageEnd → ∃ t, hostRun s = .next t))
end

