-- ==== Sys2Proof/Laws/State.lean ====
section
/-! SUPPORT. Each update of the state against each field it keeps or writes: one lemma per field, so that no later
proof unfolds a record update. -/

namespace Sys2Proof.Machine

section

variable (s : State)

/-! ### writeByte -/

@[simp] theorem State.writeByte_x (a : Word) (b : Byte) : (s.writeByte a b).x = s.x := rfl
@[simp] theorem State.writeByte_pc (a : Word) (b : Byte) : (s.writeByte a b).pc = s.pc := rfl
@[simp] theorem State.writeByte_sp (a : Word) (b : Byte) : (s.writeByte a b).sp = s.sp := rfl
@[simp] theorem State.writeByte_flags (a : Word) (b : Byte) : (s.writeByte a b).flags = s.flags := rfl
@[simp] theorem State.writeByte_mem (a : Word) (b : Byte) : (s.writeByte a b).mem = Memory.write s.mem a.toNat b := rfl
@[simp] theorem State.writeByte_imageEnd (a : Word) (b : Byte) : (s.writeByte a b).imageEnd = s.imageEnd := rfl
@[simp] theorem State.writeByte_engineState (a : Word) (b : Byte) : (s.writeByte a b).engineState = s.engineState := rfl
@[simp] theorem State.writeByte_stopReason (a : Word) (b : Byte) : (s.writeByte a b).stopReason = s.stopReason := rfl
@[simp] theorem State.writeByte_runBegun (a : Word) (b : Byte) : (s.writeByte a b).runBegun = s.runBegun := rfl
@[simp] theorem State.writeByte_cfg (a : Word) (b : Byte) : (s.writeByte a b).cfg = s.cfg := rfl
@[simp] theorem State.writeByte_draws (a : Word) (b : Byte) : (s.writeByte a b).draws = s.draws := rfl
@[simp] theorem State.writeByte_events (a : Word) (b : Byte) : (s.writeByte a b).events = s.events := rfl

/-! ### writeWord -/

@[simp] theorem State.writeWord_x (a v : Word) : (s.writeWord a v).x = s.x := rfl
@[simp] theorem State.writeWord_pc (a v : Word) : (s.writeWord a v).pc = s.pc := rfl
@[simp] theorem State.writeWord_sp (a v : Word) : (s.writeWord a v).sp = s.sp := rfl
@[simp] theorem State.writeWord_flags (a v : Word) : (s.writeWord a v).flags = s.flags := rfl
@[simp] theorem State.writeWord_mem (a v : Word) : (s.writeWord a v).mem = Memory.write (Memory.write s.mem a.toNat (lowByte v)) (a + 1).toNat (highByte v) := rfl
@[simp] theorem State.writeWord_imageEnd (a v : Word) : (s.writeWord a v).imageEnd = s.imageEnd := rfl
@[simp] theorem State.writeWord_engineState (a v : Word) : (s.writeWord a v).engineState = s.engineState := rfl
@[simp] theorem State.writeWord_stopReason (a v : Word) : (s.writeWord a v).stopReason = s.stopReason := rfl
@[simp] theorem State.writeWord_runBegun (a v : Word) : (s.writeWord a v).runBegun = s.runBegun := rfl
@[simp] theorem State.writeWord_cfg (a v : Word) : (s.writeWord a v).cfg = s.cfg := rfl
@[simp] theorem State.writeWord_draws (a v : Word) : (s.writeWord a v).draws = s.draws := rfl
@[simp] theorem State.writeWord_events (a v : Word) : (s.writeWord a v).events = s.events := rfl

/-! ### setReg -/

@[simp] theorem State.setReg_x (d : Reg) (v : Word) : (s.setReg d v).x = s.x.set d v := rfl
@[simp] theorem State.setReg_pc (d : Reg) (v : Word) : (s.setReg d v).pc = s.pc := rfl
@[simp] theorem State.setReg_sp (d : Reg) (v : Word) : (s.setReg d v).sp = s.sp := rfl
@[simp] theorem State.setReg_flags (d : Reg) (v : Word) : (s.setReg d v).flags = s.flags := rfl
@[simp] theorem State.setReg_mem (d : Reg) (v : Word) : (s.setReg d v).mem = s.mem := rfl
@[simp] theorem State.setReg_imageEnd (d : Reg) (v : Word) : (s.setReg d v).imageEnd = s.imageEnd := rfl
@[simp] theorem State.setReg_engineState (d : Reg) (v : Word) : (s.setReg d v).engineState = s.engineState := rfl
@[simp] theorem State.setReg_stopReason (d : Reg) (v : Word) : (s.setReg d v).stopReason = s.stopReason := rfl
@[simp] theorem State.setReg_runBegun (d : Reg) (v : Word) : (s.setReg d v).runBegun = s.runBegun := rfl
@[simp] theorem State.setReg_cfg (d : Reg) (v : Word) : (s.setReg d v).cfg = s.cfg := rfl
@[simp] theorem State.setReg_draws (d : Reg) (v : Word) : (s.setReg d v).draws = s.draws := rfl
@[simp] theorem State.setReg_events (d : Reg) (v : Word) : (s.setReg d v).events = s.events := rfl

/-! ### writeResult -/

@[simp] theorem State.writeResult_x (d : Reg) (r : Word) (fl : Flags) : (s.writeResult d r fl).x = s.x.set d r := rfl
@[simp] theorem State.writeResult_pc (d : Reg) (r : Word) (fl : Flags) : (s.writeResult d r fl).pc = s.pc := rfl
@[simp] theorem State.writeResult_sp (d : Reg) (r : Word) (fl : Flags) : (s.writeResult d r fl).sp = s.sp := rfl
@[simp] theorem State.writeResult_flags (d : Reg) (r : Word) (fl : Flags) : (s.writeResult d r fl).flags = fl := rfl
@[simp] theorem State.writeResult_mem (d : Reg) (r : Word) (fl : Flags) : (s.writeResult d r fl).mem = s.mem := rfl
@[simp] theorem State.writeResult_imageEnd (d : Reg) (r : Word) (fl : Flags) : (s.writeResult d r fl).imageEnd = s.imageEnd := rfl
@[simp] theorem State.writeResult_engineState (d : Reg) (r : Word) (fl : Flags) : (s.writeResult d r fl).engineState = s.engineState := rfl
@[simp] theorem State.writeResult_stopReason (d : Reg) (r : Word) (fl : Flags) : (s.writeResult d r fl).stopReason = s.stopReason := rfl
@[simp] theorem State.writeResult_runBegun (d : Reg) (r : Word) (fl : Flags) : (s.writeResult d r fl).runBegun = s.runBegun := rfl
@[simp] theorem State.writeResult_cfg (d : Reg) (r : Word) (fl : Flags) : (s.writeResult d r fl).cfg = s.cfg := rfl
@[simp] theorem State.writeResult_draws (d : Reg) (r : Word) (fl : Flags) : (s.writeResult d r fl).draws = s.draws := rfl
@[simp] theorem State.writeResult_events (d : Reg) (r : Word) (fl : Flags) : (s.writeResult d r fl).events = s.events := rfl

/-! ### emit -/

@[simp] theorem State.emit_x (e : Event) : (s.emit e).x = s.x := rfl
@[simp] theorem State.emit_pc (e : Event) : (s.emit e).pc = s.pc := rfl
@[simp] theorem State.emit_sp (e : Event) : (s.emit e).sp = s.sp := rfl
@[simp] theorem State.emit_flags (e : Event) : (s.emit e).flags = s.flags := rfl
@[simp] theorem State.emit_mem (e : Event) : (s.emit e).mem = s.mem := rfl
@[simp] theorem State.emit_imageEnd (e : Event) : (s.emit e).imageEnd = s.imageEnd := rfl
@[simp] theorem State.emit_engineState (e : Event) : (s.emit e).engineState = s.engineState := rfl
@[simp] theorem State.emit_stopReason (e : Event) : (s.emit e).stopReason = s.stopReason := rfl
@[simp] theorem State.emit_runBegun (e : Event) : (s.emit e).runBegun = s.runBegun := rfl
@[simp] theorem State.emit_cfg (e : Event) : (s.emit e).cfg = s.cfg := rfl
@[simp] theorem State.emit_draws (e : Event) : (s.emit e).draws = s.draws := rfl
@[simp] theorem State.emit_events (e : Event) : (s.emit e).events = s.events ++ [e] := rfl

/-! ### emitIf -/

@[simp] theorem State.emitIf_x (p : Bool) (e : Event) : (s.emitIf p e).x = s.x := by cases p <;> rfl
@[simp] theorem State.emitIf_pc (p : Bool) (e : Event) : (s.emitIf p e).pc = s.pc := by cases p <;> rfl
@[simp] theorem State.emitIf_sp (p : Bool) (e : Event) : (s.emitIf p e).sp = s.sp := by cases p <;> rfl
@[simp] theorem State.emitIf_flags (p : Bool) (e : Event) : (s.emitIf p e).flags = s.flags := by cases p <;> rfl
@[simp] theorem State.emitIf_mem (p : Bool) (e : Event) : (s.emitIf p e).mem = s.mem := by cases p <;> rfl
@[simp] theorem State.emitIf_imageEnd (p : Bool) (e : Event) : (s.emitIf p e).imageEnd = s.imageEnd := by cases p <;> rfl
@[simp] theorem State.emitIf_engineState (p : Bool) (e : Event) : (s.emitIf p e).engineState = s.engineState := by cases p <;> rfl
@[simp] theorem State.emitIf_stopReason (p : Bool) (e : Event) : (s.emitIf p e).stopReason = s.stopReason := by cases p <;> rfl
@[simp] theorem State.emitIf_runBegun (p : Bool) (e : Event) : (s.emitIf p e).runBegun = s.runBegun := by cases p <;> rfl
@[simp] theorem State.emitIf_cfg (p : Bool) (e : Event) : (s.emitIf p e).cfg = s.cfg := by cases p <;> rfl
@[simp] theorem State.emitIf_draws (p : Bool) (e : Event) : (s.emitIf p e).draws = s.draws := by cases p <;> rfl
@[simp] theorem State.emitIf_events (p : Bool) (e : Event) : (s.emitIf p e).events = if p then s.events ++ [e] else s.events := by cases p <;> rfl

/-! ### stop -/

@[simp] theorem State.stop_x (r : StopReason) : (s.stop r).x = s.x := rfl
@[simp] theorem State.stop_pc (r : StopReason) : (s.stop r).pc = s.pc := rfl
@[simp] theorem State.stop_sp (r : StopReason) : (s.stop r).sp = s.sp := rfl
@[simp] theorem State.stop_flags (r : StopReason) : (s.stop r).flags = s.flags := rfl
@[simp] theorem State.stop_mem (r : StopReason) : (s.stop r).mem = s.mem := rfl
@[simp] theorem State.stop_imageEnd (r : StopReason) : (s.stop r).imageEnd = s.imageEnd := rfl
@[simp] theorem State.stop_engineState (r : StopReason) : (s.stop r).engineState = .halted := rfl
@[simp] theorem State.stop_stopReason (r : StopReason) : (s.stop r).stopReason = r := rfl
@[simp] theorem State.stop_runBegun (r : StopReason) : (s.stop r).runBegun = s.runBegun := rfl
@[simp] theorem State.stop_cfg (r : StopReason) : (s.stop r).cfg = s.cfg := rfl
@[simp] theorem State.stop_draws (r : StopReason) : (s.stop r).draws = s.draws := rfl
@[simp] theorem State.stop_events (r : StopReason) : (s.stop r).events = s.events := rfl

/-! ### draw -/

@[simp] theorem State.draw_x : (s.draw.2).x = s.x := rfl
@[simp] theorem State.draw_pc : (s.draw.2).pc = s.pc := rfl
@[simp] theorem State.draw_sp : (s.draw.2).sp = s.sp := rfl
@[simp] theorem State.draw_flags : (s.draw.2).flags = s.flags := rfl
@[simp] theorem State.draw_mem : (s.draw.2).mem = s.mem := rfl
@[simp] theorem State.draw_imageEnd : (s.draw.2).imageEnd = s.imageEnd := rfl
@[simp] theorem State.draw_engineState : (s.draw.2).engineState = s.engineState := rfl
@[simp] theorem State.draw_stopReason : (s.draw.2).stopReason = s.stopReason := rfl
@[simp] theorem State.draw_runBegun : (s.draw.2).runBegun = s.runBegun := rfl
@[simp] theorem State.draw_cfg : (s.draw.2).cfg = s.cfg := rfl
@[simp] theorem State.draw_draws : (s.draw.2).draws = s.draws + 1 := rfl
@[simp] theorem State.draw_events : (s.draw.2).events = s.events := rfl

/-! ### jumpIf -/

@[simp] theorem State.jumpIf_x (p : Bool) (o : Word) : (s.jumpIf p o).x = s.x := by cases p <;> rfl
@[simp] theorem State.jumpIf_pc (p : Bool) (o : Word) : (s.jumpIf p o).pc = if p then s.pc + o else s.pc := by cases p <;> rfl
@[simp] theorem State.jumpIf_sp (p : Bool) (o : Word) : (s.jumpIf p o).sp = s.sp := by cases p <;> rfl
@[simp] theorem State.jumpIf_flags (p : Bool) (o : Word) : (s.jumpIf p o).flags = s.flags := by cases p <;> rfl
@[simp] theorem State.jumpIf_mem (p : Bool) (o : Word) : (s.jumpIf p o).mem = s.mem := by cases p <;> rfl
@[simp] theorem State.jumpIf_imageEnd (p : Bool) (o : Word) : (s.jumpIf p o).imageEnd = s.imageEnd := by cases p <;> rfl
@[simp] theorem State.jumpIf_engineState (p : Bool) (o : Word) : (s.jumpIf p o).engineState = s.engineState := by cases p <;> rfl
@[simp] theorem State.jumpIf_stopReason (p : Bool) (o : Word) : (s.jumpIf p o).stopReason = s.stopReason := by cases p <;> rfl
@[simp] theorem State.jumpIf_runBegun (p : Bool) (o : Word) : (s.jumpIf p o).runBegun = s.runBegun := by cases p <;> rfl
@[simp] theorem State.jumpIf_cfg (p : Bool) (o : Word) : (s.jumpIf p o).cfg = s.cfg := by cases p <;> rfl
@[simp] theorem State.jumpIf_draws (p : Bool) (o : Word) : (s.jumpIf p o).draws = s.draws := by cases p <;> rfl
@[simp] theorem State.jumpIf_events (p : Bool) (o : Word) : (s.jumpIf p o).events = s.events := by cases p <;> rfl

/-! ### bitAt -/

@[simp] theorem State.bitAt_x (v : Word) (k : Int) : ((s.bitAt v k).2).x = s.x := by unfold State.bitAt; split <;> rfl
@[simp] theorem State.bitAt_pc (v : Word) (k : Int) : ((s.bitAt v k).2).pc = s.pc := by unfold State.bitAt; split <;> rfl
@[simp] theorem State.bitAt_sp (v : Word) (k : Int) : ((s.bitAt v k).2).sp = s.sp := by unfold State.bitAt; split <;> rfl
@[simp] theorem State.bitAt_flags (v : Word) (k : Int) : ((s.bitAt v k).2).flags = s.flags := by unfold State.bitAt; split <;> rfl
@[simp] theorem State.bitAt_mem (v : Word) (k : Int) : ((s.bitAt v k).2).mem = s.mem := by unfold State.bitAt; split <;> rfl
@[simp] theorem State.bitAt_imageEnd (v : Word) (k : Int) : ((s.bitAt v k).2).imageEnd = s.imageEnd := by unfold State.bitAt; split <;> rfl
@[simp] theorem State.bitAt_engineState (v : Word) (k : Int) : ((s.bitAt v k).2).engineState = s.engineState := by unfold State.bitAt; split <;> rfl
@[simp] theorem State.bitAt_stopReason (v : Word) (k : Int) : ((s.bitAt v k).2).stopReason = s.stopReason := by unfold State.bitAt; split <;> rfl
@[simp] theorem State.bitAt_runBegun (v : Word) (k : Int) : ((s.bitAt v k).2).runBegun = s.runBegun := by unfold State.bitAt; split <;> rfl
@[simp] theorem State.bitAt_cfg (v : Word) (k : Int) : ((s.bitAt v k).2).cfg = s.cfg := by unfold State.bitAt; split <;> rfl
@[simp] theorem State.bitAt_draws (v : Word) (k : Int) : ((s.bitAt v k).2).draws = if k < 0 then s.draws + 1 else s.draws := by unfold State.bitAt; split <;> rfl
@[simp] theorem State.bitAt_events (v : Word) (k : Int) : ((s.bitAt v k).2).events = s.events := by unfold State.bitAt; split <;> rfl

/-! ### push -/

@[simp] theorem State.push_x (v : Word) : (s.push v).x = s.x := by unfold State.push; split <;> rfl
@[simp] theorem State.push_pc (v : Word) : (s.push v).pc = s.pc := by unfold State.push; split <;> rfl
@[simp] theorem State.push_sp (v : Word) : (s.push v).sp = if s.canPush then s.sp - 2 else s.sp := by unfold State.push; split <;> rfl
@[simp] theorem State.push_flags (v : Word) : (s.push v).flags = s.flags := by unfold State.push; split <;> rfl
@[simp] theorem State.push_mem (v : Word) : (s.push v).mem = if s.canPush then (s.writeWord s.pushAddr v).mem else s.mem := by unfold State.push; split <;> rfl
@[simp] theorem State.push_imageEnd (v : Word) : (s.push v).imageEnd = s.imageEnd := by unfold State.push; split <;> rfl
@[simp] theorem State.push_engineState (v : Word) : (s.push v).engineState = s.engineState := by unfold State.push; split <;> rfl
@[simp] theorem State.push_stopReason (v : Word) : (s.push v).stopReason = s.stopReason := by unfold State.push; split <;> rfl
@[simp] theorem State.push_runBegun (v : Word) : (s.push v).runBegun = s.runBegun := by unfold State.push; split <;> rfl
@[simp] theorem State.push_cfg (v : Word) : (s.push v).cfg = s.cfg := by unfold State.push; split <;> rfl
@[simp] theorem State.push_draws (v : Word) : (s.push v).draws = s.draws := by unfold State.push; split <;> rfl
@[simp] theorem State.push_events (v : Word) : (s.push v).events = if s.canPush then s.events else s.events ++ [.diag .pushDropped] := by unfold State.push; split <;> rfl

/-! ### pop -/

@[simp] theorem State.pop_x (d : Reg) : (s.pop d).x = if s.canPop then s.x.set d (s.readWord s.popAddr) else s.x := by unfold State.pop; split <;> rfl
@[simp] theorem State.pop_pc (d : Reg) : (s.pop d).pc = s.pc := by unfold State.pop; split <;> rfl
@[simp] theorem State.pop_sp (d : Reg) : (s.pop d).sp = if s.canPop then s.popAddr else s.sp := by unfold State.pop; split <;> rfl
@[simp] theorem State.pop_flags (d : Reg) : (s.pop d).flags = s.flags := by unfold State.pop; split <;> rfl
@[simp] theorem State.pop_mem (d : Reg) : (s.pop d).mem = s.mem := by unfold State.pop; split <;> rfl
@[simp] theorem State.pop_imageEnd (d : Reg) : (s.pop d).imageEnd = s.imageEnd := by unfold State.pop; split <;> rfl
@[simp] theorem State.pop_engineState (d : Reg) : (s.pop d).engineState = s.engineState := by unfold State.pop; split <;> rfl
@[simp] theorem State.pop_stopReason (d : Reg) : (s.pop d).stopReason = s.stopReason := by unfold State.pop; split <;> rfl
@[simp] theorem State.pop_runBegun (d : Reg) : (s.pop d).runBegun = s.runBegun := by unfold State.pop; split <;> rfl
@[simp] theorem State.pop_cfg (d : Reg) : (s.pop d).cfg = s.cfg := by unfold State.pop; split <;> rfl
@[simp] theorem State.pop_draws (d : Reg) : (s.pop d).draws = s.draws := by unfold State.pop; split <;> rfl
@[simp] theorem State.pop_events (d : Reg) : (s.pop d).events = if s.canPop then s.events else s.events ++ [.diag .popEmpty] := by unfold State.pop; split <;> rfl

/-! ### loadPair -/

@[simp] theorem State.loadPair_x (p : Word × Word) : (s.loadPair p).x = s.x := rfl
@[simp] theorem State.loadPair_pc (p : Word × Word) : (s.loadPair p).pc = s.pc := rfl
@[simp] theorem State.loadPair_sp (p : Word × Word) : (s.loadPair p).sp = s.sp := rfl
@[simp] theorem State.loadPair_flags (p : Word × Word) : (s.loadPair p).flags = s.flags := rfl
@[simp] theorem State.loadPair_mem (p : Word × Word) : (s.loadPair p).mem = (s.writeWord p.1 p.2).mem := rfl
@[simp] theorem State.loadPair_imageEnd (p : Word × Word) : (s.loadPair p).imageEnd = p.1.toNat + 2 := rfl
@[simp] theorem State.loadPair_engineState (p : Word × Word) : (s.loadPair p).engineState = s.engineState := rfl
@[simp] theorem State.loadPair_stopReason (p : Word × Word) : (s.loadPair p).stopReason = s.stopReason := rfl
@[simp] theorem State.loadPair_runBegun (p : Word × Word) : (s.loadPair p).runBegun = s.runBegun := rfl
@[simp] theorem State.loadPair_cfg (p : Word × Word) : (s.loadPair p).cfg = s.cfg := rfl
@[simp] theorem State.loadPair_draws (p : Word × Word) : (s.loadPair p).draws = s.draws := rfl
@[simp] theorem State.loadPair_events (p : Word × Word) : (s.loadPair p).events = s.events := rfl

/-! ### runReset -/

@[simp] theorem State.runReset_x : (s.runReset).x = Vector.replicate 8 0 := rfl
@[simp] theorem State.runReset_pc : (s.runReset).pc = 0 := rfl
@[simp] theorem State.runReset_sp : (s.runReset).sp = s.cfg.stackStart := rfl
@[simp] theorem State.runReset_flags : (s.runReset).flags = ⟨false, false, false, false⟩ := rfl
@[simp] theorem State.runReset_mem : (s.runReset).mem = s.mem := rfl
@[simp] theorem State.runReset_imageEnd : (s.runReset).imageEnd = s.imageEnd := rfl
@[simp] theorem State.runReset_engineState : (s.runReset).engineState = .fetching := rfl
@[simp] theorem State.runReset_stopReason : (s.runReset).stopReason = .none := rfl
@[simp] theorem State.runReset_runBegun : (s.runReset).runBegun = true := rfl
@[simp] theorem State.runReset_cfg : (s.runReset).cfg = s.cfg := rfl
@[simp] theorem State.runReset_draws : (s.runReset).draws = s.draws := rfl
@[simp] theorem State.runReset_events : (s.runReset).events = s.events := rfl

/-! ### entered -/

@[simp] theorem State.entered_x (i : Instr) : (s.entered i).x = s.x := rfl
@[simp] theorem State.entered_pc (i : Instr) : (s.entered i).pc = s.pc + 2 := rfl
@[simp] theorem State.entered_sp (i : Instr) : (s.entered i).sp = s.sp := rfl
@[simp] theorem State.entered_flags (i : Instr) : (s.entered i).flags = s.flags := rfl
@[simp] theorem State.entered_mem (i : Instr) : (s.entered i).mem = s.mem := rfl
@[simp] theorem State.entered_imageEnd (i : Instr) : (s.entered i).imageEnd = s.imageEnd := rfl
@[simp] theorem State.entered_engineState (i : Instr) : (s.entered i).engineState = if entersExecuting i then .executing else .decoding := rfl
@[simp] theorem State.entered_stopReason (i : Instr) : (s.entered i).stopReason = s.stopReason := rfl
@[simp] theorem State.entered_runBegun (i : Instr) : (s.entered i).runBegun = true := rfl
@[simp] theorem State.entered_cfg (i : Instr) : (s.entered i).cfg = s.cfg := rfl
@[simp] theorem State.entered_draws (i : Instr) : (s.entered i).draws = s.draws := rfl
@[simp] theorem State.entered_events (i : Instr) : (s.entered i).events = s.events := rfl

/-! ### finished -/

@[simp] theorem State.finished_x : (s.finished).x = s.x := by unfold State.finished; split <;> simp_all
@[simp] theorem State.finished_pc : (s.finished).pc = s.pc := by unfold State.finished; split <;> simp_all
@[simp] theorem State.finished_sp : (s.finished).sp = s.sp := by unfold State.finished; split <;> simp_all
@[simp] theorem State.finished_flags : (s.finished).flags = s.flags := by unfold State.finished; split <;> simp_all
@[simp] theorem State.finished_mem : (s.finished).mem = s.mem := by unfold State.finished; split <;> simp_all
@[simp] theorem State.finished_imageEnd : (s.finished).imageEnd = s.imageEnd := by unfold State.finished; split <;> simp_all
@[simp] theorem State.finished_engineState : (s.finished).engineState = if s.engineState = .halted then .halted else .fetching := by unfold State.finished; split <;> simp_all
@[simp] theorem State.finished_stopReason : (s.finished).stopReason = s.stopReason := by unfold State.finished; split <;> simp_all
@[simp] theorem State.finished_runBegun : (s.finished).runBegun = s.runBegun := by unfold State.finished; split <;> simp_all
@[simp] theorem State.finished_cfg : (s.finished).cfg = s.cfg := by unfold State.finished; split <;> simp_all
@[simp] theorem State.finished_draws : (s.finished).draws = s.draws := by unfold State.finished; split <;> simp_all
@[simp] theorem State.finished_events : (s.finished).events = s.events := by unfold State.finished; split <;> simp_all

/-! ### placeWord -/

@[simp] theorem State.placeWord_x (w : Word) : (s.placeWord w).x = s.x := rfl
@[simp] theorem State.placeWord_pc (w : Word) : (s.placeWord w).pc = s.pc := rfl
@[simp] theorem State.placeWord_sp (w : Word) : (s.placeWord w).sp = s.sp := rfl
@[simp] theorem State.placeWord_flags (w : Word) : (s.placeWord w).flags = s.flags := rfl
@[simp] theorem State.placeWord_mem (w : Word) : (s.placeWord w).mem = (s.writeWord s.pc w).mem := rfl
@[simp] theorem State.placeWord_imageEnd (w : Word) : (s.placeWord w).imageEnd = s.pc.toNat + 2 := rfl
@[simp] theorem State.placeWord_engineState (w : Word) : (s.placeWord w).engineState = .fetching := rfl
@[simp] theorem State.placeWord_stopReason (w : Word) : (s.placeWord w).stopReason = .none := rfl
@[simp] theorem State.placeWord_runBegun (w : Word) : (s.placeWord w).runBegun = s.runBegun := rfl
@[simp] theorem State.placeWord_cfg (w : Word) : (s.placeWord w).cfg = s.cfg := rfl
@[simp] theorem State.placeWord_draws (w : Word) : (s.placeWord w).draws = s.draws := rfl
@[simp] theorem State.placeWord_events (w : Word) : (s.placeWord w).events = s.events := rfl

end

/-! ### Registers -/

/-- The written register reads as written; every other reads as before (spec/00_scope.md R14). -/
theorem State.reg_setReg (s : State) (d e : Reg) (v : Word) : (s.setReg d v).reg e = if e = d then v else s.reg e := by
  simp [State.reg, State.setReg, Vector.getElem_set, Fin.ext_iff, eq_comm]

/-- As `State.reg_setReg`, for the write that takes flags along. -/
theorem State.reg_writeResult (s : State) (d e : Reg) (r : Word) (f : Flags) :
    (s.writeResult d r f).reg e = if e = d then r else s.reg e := by
  simp [State.reg, State.writeResult, Vector.getElem_set, Fin.ext_iff, eq_comm]

/-- Two states with the same register file read the same registers. -/
theorem State.reg_congr (s t : State) (h : t.x = s.x) (e : Reg) : t.reg e = s.reg e := by
  simp [State.reg, h]

/-- Two states with the same memory read the same bytes. -/
theorem State.readByte_congr (s t : State) (h : t.mem = s.mem) (a : Word) : t.readByte a = s.readByte a := by
  simp [State.readByte, h]

/-- Two states with the same memory read the same words. -/
theorem State.readWord_congr (s t : State) (h : t.mem = s.mem) (a : Word) : t.readWord a = s.readWord a := by
  simp [State.readWord, State.readByte, h]

end Sys2Proof.Machine
end

