-- ==== Sys2Proof/Laws/Memory.lean ====
section
/-! SUPPORT. The laws of the byte store: a read after a write, the canonical form kept by every memory operation, and
words over bytes (spec/20_memory.md R40-R44). -/

namespace Sys2Proof.Machine

/-! ## Bytes -/

@[simp] theorem Memory.read_nil (a : Nat) : Memory.read [] a = Memory.unlisted := rfl

@[simp] theorem Memory.read_cell (k : Nat) (v : Byte) (m : Memory) (a : Nat) :
    Memory.read ((k, v) :: m) a = if k = a then v else Memory.read m a := rfl

/-- A memory all of whose addresses lie above `a` reads as unlisted at `a`. -/
theorem Memory.read_of_above (m : Memory) (a : Nat) (h : ∀ c ∈ m, a < c.1) : Memory.read m a = Memory.unlisted := by
  induction m with
  | nil => rfl
  | cons c rest ih =>
    obtain ⟨k, v⟩ := c
    have hk : a < k := h (k, v) (by simp)
    rw [Memory.read_cell, if_neg (by omega)]
    exact ih (fun c hc => h c (by simp [hc]))

/-- Reading the memory with one more cell in front. -/
theorem Memory.read_cons (a b : Nat) (v : Byte) (m : Memory) (h : Memory.read m a = Memory.unlisted) :
    Memory.read (Memory.cons a v m) b = if b = a then v else Memory.read m b := by
  unfold Memory.cons
  by_cases hv : v = Memory.unlisted
  · rw [if_pos hv]
    by_cases hb : b = a
    · rw [if_pos hb, hb, h, hv]
    · rw [if_neg hb]
  · simp only [if_neg hv, Memory.read_cell, eq_comm]

/-- The canonical form as two facts. -/
theorem Memory.wf_iff (m : Memory) :
    Memory.wf m = true ↔ m.Pairwise (fun c d => c.1 < d.1) ∧ ∀ c ∈ m, c.1 < 65536 ∧ c.2 ≠ Memory.unlisted := by
  simp [Memory.wf]

/-- The empty memory is canonical. -/
@[simp] theorem Memory.wf_nil : Memory.wf [] = true := by decide

/-- A canonical memory's tail is canonical and lies above its first address. -/
theorem Memory.wf_tail {k : Nat} {v : Byte} {m : Memory} (h : Memory.wf ((k, v) :: m) = true) :
    Memory.wf m = true ∧ (∀ c ∈ m, k < c.1) ∧ k < 65536 ∧ v ≠ Memory.unlisted := by
  rw [Memory.wf_iff] at h
  obtain ⟨hp, ha⟩ := h
  rw [List.pairwise_cons] at hp
  have hkv := ha (k, v) (by simp)
  exact ⟨(Memory.wf_iff m).2 ⟨hp.2, fun c hc => ha c (by simp [hc])⟩, fun c hc => hp.1 c hc, hkv.1, hkv.2⟩

/-- A read after a write on a canonical memory: the byte written at its address, the old byte elsewhere. -/
theorem Memory.read_write (m : Memory) (hm : Memory.wf m = true) (a b : Nat) (v : Byte) :
    Memory.read (Memory.write m a v) b = if b = a then v else Memory.read m b := by
  induction m with
  | nil => simpa [Memory.write] using Memory.read_cons a b v [] rfl
  | cons c rest ih =>
    obtain ⟨k, w⟩ := c
    obtain ⟨hrest, habove, -, -⟩ := Memory.wf_tail hm
    unfold Memory.write
    by_cases h1 : a < k
    · rw [if_pos h1]
      refine Memory.read_cons a b v _ ?_
      rw [Memory.read_cell, if_neg (by omega)]
      exact Memory.read_of_above rest a (fun c hc => Nat.lt_trans h1 (habove c hc))
    · rw [if_neg h1]
      by_cases h2 : a = k
      · subst h2
        rw [if_pos rfl, Memory.read_cons a b v rest (Memory.read_of_above rest a habove), Memory.read_cell]
        by_cases hb : b = a
        · simp [hb]
        · rw [if_neg hb, if_neg hb, if_neg (by omega)]
      · rw [if_neg h2, Memory.read_cell, Memory.read_cell, ih hrest]
        by_cases hk : k = b
        · rw [if_pos hk, if_pos hk, if_neg (by omega)]
        · rw [if_neg hk, if_neg hk]

/-- An address of the memory after a write is one of before or the written one. -/
theorem Memory.mem_write {m : Memory} {a : Nat} {v : Byte} {c : Host.Cell} (h : c ∈ Memory.write m a v) :
    c ∈ m ∨ (c = (a, v) ∧ v ≠ Memory.unlisted) := by
  have hcons : ∀ n : Memory, c ∈ Memory.cons a v n → c ∈ n ∨ (c = (a, v) ∧ v ≠ Memory.unlisted) := by
    intro n hn
    unfold Memory.cons at hn
    split at hn
    · exact .inl hn
    · rcases List.mem_cons.1 hn with rfl | hn
      · exact .inr ⟨rfl, ‹_›⟩
      · exact .inl hn
  induction m with
  | nil => exact hcons [] h
  | cons d rest ih =>
    obtain ⟨k, w⟩ := d
    unfold Memory.write at h
    split at h
    · exact hcons _ h
    · split at h
      · rcases hcons _ h with h | h
        · exact .inl (by simp [h])
        · exact .inr h
      · rcases List.mem_cons.1 h with rfl | h
        · exact .inl (by simp)
        · rcases ih h with h | h
          · exact .inl (by simp [h])
          · exact .inr h

/-- A write keeps the canonical form. -/
theorem Memory.wf_write (m : Memory) (hm : Memory.wf m = true) (a : Nat) (ha : a < 65536) (v : Byte) :
    Memory.wf (Memory.write m a v) = true := by
  induction m with
  | nil =>
    unfold Memory.write Memory.cons
    split
    · rfl
    · exact (Memory.wf_iff _).2 ⟨by simp, by simp_all⟩
  | cons c rest ih =>
    obtain ⟨k, w⟩ := c
    obtain ⟨hrest, habove, hk, hw⟩ := Memory.wf_tail hm
    have hfront : ∀ n : Memory, Memory.wf n = true → (∀ c ∈ n, a < c.1) → Memory.wf (Memory.cons a v n) = true := by
      intro n hn hlt
      unfold Memory.cons
      split
      · exact hn
      · rw [Memory.wf_iff] at hn ⊢
        refine ⟨List.pairwise_cons.2 ⟨fun c hc => hlt c hc, hn.1⟩, ?_⟩
        intro c hc
        rcases List.mem_cons.1 hc with rfl | hc
        · exact ⟨ha, ‹_›⟩
        · exact hn.2 c hc
    unfold Memory.write
    split
    · refine hfront _ hm ?_
      intro c hc
      rcases List.mem_cons.1 hc with rfl | hc
      · assumption
      · exact Nat.lt_trans ‹_› (habove c hc)
    · split
      · subst ‹a = k›
        exact hfront rest hrest habove
      · have ihr := (Memory.wf_iff _).1 (ih hrest)
        refine (Memory.wf_iff _).2 ⟨List.pairwise_cons.2 ⟨?_, ihr.1⟩, ?_⟩
        · intro c hc
          rcases Memory.mem_write hc with hc | ⟨rfl, -⟩
          · exact habove c hc
          · show k < a
            omega
        · intro c hc
          rcases List.mem_cons.1 hc with rfl | hc
          · exact ⟨hk, hw⟩
          · exact ihr.2 c hc

/-! ## Bytes and words of a state -/

/-- A byte write keeps the canonical form. -/
theorem State.wf_writeByte (s : State) (h : Memory.wf s.mem = true) (a : Word) (v : Byte) :
    Memory.wf (s.writeByte a v).mem = true :=
  Memory.wf_write s.mem h a.toNat a.isLt v

/-- A word write keeps the canonical form. -/
theorem State.wf_writeWord (s : State) (h : Memory.wf s.mem = true) (a v : Word) :
    Memory.wf (s.writeWord a v).mem = true :=
  State.wf_writeByte _ (State.wf_writeByte s h a _) (a + 1) _

/-- A loaded pair keeps the canonical form. -/
theorem State.wf_loadPair (s : State) (h : Memory.wf s.mem = true) (p : Word × Word) :
    Memory.wf (s.loadPair p).mem = true := by
  rw [State.loadPair_mem]
  exact State.wf_writeWord s h p.1 p.2

/-- A push keeps the canonical form. -/
theorem State.wf_push (s : State) (h : Memory.wf s.mem = true) (v : Word) : Memory.wf (s.push v).mem = true := by
  rw [State.push_mem]
  split
  · exact State.wf_writeWord s h _ v
  · exact h

/-- Placing a word to fetch keeps the canonical form. -/
theorem State.wf_placeWord (s : State) (h : Memory.wf s.mem = true) (w : Word) :
    Memory.wf (s.placeWord w).mem = true := by
  rw [State.placeWord_mem]
  exact State.wf_writeWord s h s.pc w

/-- The memory of the machine after reset is canonical. -/
theorem State.wf_reset : Memory.wf State.reset.mem = true := by decide

/-- A byte read after a byte write. -/
theorem State.readByte_writeByte (s : State) (h : Memory.wf s.mem = true) (a b : Word) (v : Byte) :
    (s.writeByte a v).readByte b = if b = a then v else s.readByte b := by
  simp only [State.readByte, State.writeByte_mem, Memory.read_write s.mem h]
  by_cases hb : b = a
  · simp [hb]
  · rw [if_neg hb, if_neg (fun h => hb (BitVec.eq_of_toNat_eq h))]

/-- A byte read after a word write: the low byte at the address, the high byte at the next (R43). -/
theorem State.readByte_writeWord (s : State) (h : Memory.wf s.mem = true) (a b v : Word) :
    (s.writeWord a v).readByte b = if b = a + 1 then highByte v else if b = a then lowByte v else s.readByte b := by
  unfold State.writeWord
  rw [State.readByte_writeByte _ (State.wf_writeByte s h a _), State.readByte_writeByte s h]

/-- An address and the next one differ. -/
theorem Word.ne_succ (a : Word) : a ≠ a + 1 := by
  intro h
  have := congrArg BitVec.toNat h
  simp [BitVec.toNat_add] at this
  omega

/-- The two bytes of a word put together again. -/
@[simp] theorem wordOfBytes_bytes (v : Word) : wordOfBytes (lowByte v) (highByte v) = v := by
  apply BitVec.eq_of_getLsbD_eq
  intro i hi
  show (v.extractLsb' 8 8 ++ v.extractLsb' 0 8).getLsbD i = _
  rw [BitVec.getLsbD_append]
  by_cases h : i < 8
  · simp [h]
  · have h' : i - 8 < 8 := by omega
    have h'' : 8 + (i - 8) = i := by omega
    simp [h, h', h'']

/-- A word read after a word write at the same address (R42, R43). -/
theorem State.readWord_writeWord (s : State) (h : Memory.wf s.mem = true) (a v : Word) :
    (s.writeWord a v).readWord a = v := by
  unfold State.readWord
  rw [State.readByte_writeWord s h, State.readByte_writeWord s h, if_neg (Word.ne_succ a), if_pos rfl, if_pos rfl]
  exact wordOfBytes_bytes v

end Sys2Proof.Machine
end

