-- ==== Sys2Proof/Laws/Ops.lean ====
section
/-! SUPPORT. One lemma per shared operation that says once everything it can do; the provers cite these instead of
unfolding the operations. -/

namespace Sys2Proof.Machine

/-! ## Draws and bits -/

/-- `bit(v, k)` below 0 is the next draw (spec/00_scope.md R16, R17). -/
theorem State.bitAt_neg (s : State) (v : Word) (k : Int) (h : k < 0) :
    s.bitAt v k = (Config.drawBit s.draws, { s with draws := s.draws + 1 }) := by
  simp [State.bitAt, State.draw, h]

/-- `bit(v, k)` from 0 on is the bit of the word, 0 beyond bit 15, and no draw (R16). -/
theorem State.bitAt_nonneg (s : State) (v : Word) (k : Nat) : s.bitAt v (k : Int) = (v.getLsbD k, s) := by
  simp [State.bitAt]

/-! ## Stack -/

/-- A push either writes the word at `sp` and then lowers `sp`, or only says that it was dropped
(spec/41_compound_group.md R106). -/
theorem State.push_cases (s : State) (v : Word) :
    (s.cfg.floor < (s.sp.toNat : Int) ∧ s.push v = { s.writeWord s.sp v with sp := s.sp - 2 }) ∨
    (¬ s.cfg.floor < (s.sp.toNat : Int) ∧ s.push v = s.emit (.diag .pushDropped)) := by
  by_cases h : s.cfg.floor < (s.sp.toNat : Int)
  · exact .inl ⟨h, by simp [State.push, State.canPush, State.pushAddr, h]⟩
  · exact .inr ⟨h, by simp [State.push, State.canPush, h]⟩

/-- A pop either raises `sp` and then reads the word there, or only says that the stack was empty (R107). -/
theorem State.pop_cases (s : State) (d : Reg) :
    (s.cfg.floor ≤ (s.sp.toNat : Int) ∧ s.sp.toNat < s.cfg.stackStart.toNat ∧
      s.pop d = { s with sp := s.sp + 2, x := s.x.set d (s.readWord (s.sp + 2)) }) ∨
    (¬ (s.cfg.floor ≤ (s.sp.toNat : Int) ∧ s.sp.toNat < s.cfg.stackStart.toNat) ∧
      s.pop d = s.emit (.diag .popEmpty)) := by
  by_cases h : s.cfg.floor ≤ (s.sp.toNat : Int) ∧ s.sp.toNat < s.cfg.stackStart.toNat
  · exact .inl ⟨h.1, h.2, by simp [State.pop, State.canPop, State.popAddr, h]⟩
  · have hc : s.canPop = false := by simpa [State.canPop] using h
    exact .inr ⟨h, by simp [State.pop, hc]⟩

/-! ## Shifts -/

/-- SHR by 0: the register is copied, C is a draw, and the event says so (spec/45_shift_rotate.md R160). -/
theorem State.shiftRight_zero (s : State) (d m : Reg) :
    s.shiftRight d m 0 =
      (({ s with draws := s.draws + 1 } : State).writeResult d (s.reg m)
        (s.flags.withCZS (Config.drawBit s.draws) (s.reg m))).emit (.diag .shiftFlagUndefined) := by
  simp [State.shiftRight, State.bitAt, State.draw, State.emitIf]

/-- SHR by 1 or more: C is bit `k - 1`, no draw, no event (R160). -/
theorem State.shiftRight_succ (s : State) (d m : Reg) (k : Nat) :
    s.shiftRight d m (k + 1) =
      s.writeResult d (s.reg m >>> (k + 1)) (s.flags.withCZS ((s.reg m).getLsbD k) (s.reg m >>> (k + 1))) := by
  have h : ((k + 1 : Nat) : Int) - 1 = (k : Int) := by omega
  simp only [State.shiftRight, h, State.bitAt_nonneg, State.emitIf]
  simp

/-- SHL by 0 to 16: C and Ov are bit `16 - k`, no draw, no event (R161). -/
theorem State.shiftLeft_le (s : State) (d m : Reg) (k : Nat) (hk : k ≤ 16) :
    s.shiftLeft d m k = s.writeResult d (s.reg m <<< k)
      ⟨(s.reg m).getLsbD (16 - k), (s.reg m).getLsbD (16 - k), zeroFlag (s.reg m <<< k), signFlag (s.reg m <<< k)⟩ := by
  have h : (16 : Int) - (k : Int) = ((16 - k : Nat) : Int) := by omega
  simp only [State.shiftLeft, h, State.bitAt_nonneg, State.emitIf]
  rw [if_neg (by simpa using hk)]

/-- SHL by more than 16: C and Ov are two draws, and the event says so (R161). -/
theorem State.shiftLeft_gt (s : State) (d m : Reg) (k : Nat) (hk : 16 < k) :
    s.shiftLeft d m k = (({ s with draws := s.draws + 2 } : State).writeResult d (s.reg m <<< k)
      ⟨Config.drawBit s.draws, Config.drawBit (s.draws + 1), zeroFlag (s.reg m <<< k),
        signFlag (s.reg m <<< k)⟩).emit (.diag .shiftFlagUndefined) := by
  have h : (16 : Int) - (k : Int) < 0 := by omega
  simp [State.shiftLeft, State.bitAt_neg _ _ _ h, State.emitIf, hk]

/-- The register file after SHR (R160). -/
@[simp] theorem State.shiftRight_x (s : State) (d m : Reg) (k : Nat) :
    (s.shiftRight d m k).x = s.x.set d (s.reg m >>> k) := by
  simp [State.shiftRight]

/-- The register file after SHL (R161). -/
@[simp] theorem State.shiftLeft_x (s : State) (d m : Reg) (k : Nat) :
    (s.shiftLeft d m k).x = s.x.set d (s.reg m <<< k) := by
  simp [State.shiftLeft]

/-- What SHR keeps. -/
theorem State.shiftRight_keeps (s : State) (d m : Reg) (k : Nat) :
    let t := s.shiftRight d m k
    t.pc = s.pc ∧ t.sp = s.sp ∧ t.mem = s.mem ∧ t.imageEnd = s.imageEnd ∧ t.engineState = s.engineState ∧
      t.stopReason = s.stopReason ∧ t.runBegun = s.runBegun ∧ t.cfg = s.cfg ∧ t.flags.ov = s.flags.ov := by
  simp [State.shiftRight, Flags.withCZS]

/-- What SHL keeps. -/
theorem State.shiftLeft_keeps (s : State) (d m : Reg) (k : Nat) :
    let t := s.shiftLeft d m k
    t.pc = s.pc ∧ t.sp = s.sp ∧ t.mem = s.mem ∧ t.imageEnd = s.imageEnd ∧ t.engineState = s.engineState ∧
      t.stopReason = s.stopReason ∧ t.runBegun = s.runBegun ∧ t.cfg = s.cfg := by
  simp [State.shiftLeft]

/-! ## Results with flags -/

/-- The shared update of ADD, SUB and MUL is one write of a result and its flags (spec/40_engine_loop.md R88). -/
theorem State.arith_eq (s : State) (d m n : Reg) (op : Word → Word → Word) (fl : Word → Word → Word → Flags) :
    s.arith d m n op fl =
      s.writeResult d (op (s.reg m) (s.reg n)) (fl (s.reg m) (s.reg n) (op (s.reg m) (s.reg n))) := rfl

/-- The shared update of AND, ORR, XOR and NOT is one write of a result and its Z and S (spec/44_logic.md R150-R153). -/
theorem State.logic_eq (s : State) (d : Reg) (r : Word) : s.logic d r = s.writeResult d r (s.flags.withZS r) := rfl

/-! ## The step -/

/-- An outcome that is a next state is that one. -/
theorem next_inj {s t : State} (h : (Host.Outcome.next s : Host.Outcome State Fault Refusal) = .next t) : t = s := by
  injection h with h
  exact h.symm

/-- No instruction's meaning begins a run or forgets one (R206, log entry 24). -/
theorem exec_runBegun {i : Instr} {s t : State} (h : exec i s = .next t) : t.runBegun = s.runBegun := by
  cases i <;> rw [next_inj h]
  case shr d m k => exact (State.shiftRight_keeps s d m (shiftCount k)).2.2.2.2.2.2.1
  case shl d m k => exact (State.shiftLeft_keeps s d m (shiftCount k)).2.2.2.2.2.2.1
  all_goals simp [State.arith_eq, State.logic_eq]

/-- Everything a step that has a next state can have done: it stopped at the end of the image, or it ran the meaning
of the fetched word's instruction (spec/40_engine_loop.md R82-R87). -/
theorem step_cases {s t : State} (h : step s = .next t) :
    s.engineState = .fetching ∧
      ((s.imageEnd ≤ s.pc.toNat ∧ t = s.stop .endOfImage) ∨
       (s.pc.toNat < s.imageEnd ∧ ∃ u, exec s.fetchedInstr (s.entered s.fetchedInstr) = .next u ∧ t = u.finished)) := by
  unfold step at h
  split at h
  · refine ⟨‹_›, ?_⟩
    split at h
    · have he : s.atEndOfImage = true := ‹_›
      refine .inl ⟨by simpa [State.atEndOfImage] using he, ?_⟩
      injection h with h
      exact h.symm
    · have he : ¬ s.atEndOfImage = true := ‹_›
      refine .inr ⟨by simpa [State.atEndOfImage] using he, ?_⟩
      unfold finishedOutcome at h
      split at h
      · injection h with h
        exact ⟨_, ‹_›, h.symm⟩
      · cases h
      · cases h
  · cases h
  · cases h
  · cases h

/-! ## The host's operations -/

/-- A run is in progress exactly when one has begun and the engine is not in HALTED (R206). -/
theorem State.inRun_iff (s : State) : s.inRun = true ↔ s.runBegun = true ∧ s.engineState ≠ .halted := by
  simp [State.inRun]

/-- A load that succeeds is not empty, finds no run in progress, and writes its pairs in order
(spec/70_reset_and_hazards.md R203, R204, R206). -/
theorem hostLoad_cases {pairs : List (Word × Word)} {s t : State} (h : hostLoad pairs s = .next t) :
    pairs ≠ [] ∧ s.inRun = false ∧ t = pairs.foldl State.loadPair s := by
  cases pairs with
  | nil => cases h
  | cons p ps =>
    simp only [hostLoad] at h
    split at h
    · cases h
    · exact ⟨by simp, by simp_all, next_inj h⟩

/-- A run that begins has a well-formed configuration and a load behind it, finds no run in progress, and starts at the
reset state (R200-R202, R206, U7). -/
theorem hostRun_cases {s t : State} (h : hostRun s = .next t) :
    s.cfg.wf = true ∧ 2 ≤ s.imageEnd ∧ s.inRun = false ∧ t = s.runReset := by
  unfold hostRun at h
  split at h
  · cases h
  · split at h
    · cases h
    · split at h
      · cases h
      · have hl : ¬ s.loaded = false := ‹_›
        have hi : 2 ≤ s.imageEnd := by simpa only [State.loaded, decide_eq_false_iff_not, not_not] using hl
        exact ⟨by simp_all, hi, by simp_all, next_inj h⟩

end Sys2Proof.Machine
end

