-- ==== Sys2Proof/Laws/PerInstr.lean ====
section
/-! SUPPORT. A family of lemmas, one per constructor of Instr: the encoding of an instruction carries the fixed bits
that its row of spec/opcode_table.json gives it ("match" under "mask"). -/

namespace Sys2Proof.Laws.FixedBits

/-- The "mask" of an instruction's row. -/
def rowMask (i : Instr) : Word :=
  match i with
  | .nop => 0xFFFF
  | .jmp _ | .jeq _ | .jlt _ | .jgt _ | .psh _ | .pop _ | .cmp _ _ | .reserved0 _ => 0xF803
  | .movReg _ _ | .movImm _ _ | .strReg _ _ | .strImm _ _ => 0xF800
  | .ldr _ _ | .add _ _ _ | .sub _ _ _ | .mul _ _ _ | .and _ _ _ | .orr _ _ _ | .not _ _ | .xor _ _ _ => 0xF000
  | .shr _ _ _ | .shl _ _ _ | .ror _ _ | .rol _ _ | .halt => 0xF000

/-- The "match" of an instruction's row. -/
def rowMatch (i : Instr) : Word :=
  match i with
  | .nop => 0x0000
  | .jmp _ => 0x0800
  | .jeq _ => 0x0801
  | .jlt _ => 0x0802
  | .jgt _ => 0x0803
  | .psh _ => 0x0001
  | .pop _ => 0x0002
  | .cmp _ _ => 0x0003
  | .reserved0 _ => 0x0000
  | .movReg _ _ => 0x1000
  | .movImm _ _ => 0x1800
  | .strReg _ _ => 0x2000
  | .strImm _ _ => 0x2800
  | .ldr _ _ => 0x3000
  | .add _ _ _ => 0x4000
  | .sub _ _ _ => 0x5000
  | .mul _ _ _ => 0x6000
  | .and _ _ _ => 0x7000
  | .orr _ _ _ => 0x8000
  | .not _ _ => 0x9000
  | .xor _ _ _ => 0xA000
  | .shr _ _ _ => 0xB000
  | .shl _ _ _ => 0xC000
  | .ror _ _ => 0xD000
  | .rol _ _ => 0xE000
  | .halt => 0xF000

/-- The encoded word matches the row. -/
def Statement (i : Instr) : Prop := encode defaultClassMap i &&& rowMask i = rowMatch i

/-- Under the mask of a class, a word is its class (R61). -/
theorem and_class (w : Word) : w &&& 0xF000 = fieldClass w ++ (0 : BitVec 12) := by
  apply BitVec.eq_of_getLsbD_eq
  intro i hi
  rw [BitVec.getLsbD_append]
  interval_cases i <;> simp [fieldClass]

/-- The class of a word of format A3. -/
theorem class_encodeA3 (c : BitVec 4) (d m n : Reg) : fieldClass (encodeA3 c d m n) = c := by
  apply BitVec.eq_of_getLsbD_eq
  intro i hi
  simp only [fieldClass, encodeA3, BitVec.getLsbD_extractLsb', BitVec.getLsbD_append]
  interval_cases i <;> simp

/-- The class of a word of format SH. -/
theorem class_encodeSH (c : BitVec 4) (d m : Reg) (k : BitVec 5) : fieldClass (encodeSH c d m k) = c := by
  apply BitVec.eq_of_getLsbD_eq
  intro i hi
  simp only [fieldClass, encodeSH, BitVec.getLsbD_extractLsb', BitVec.getLsbD_append]
  interval_cases i <;> simp

/-- A word of format A3 under the mask of its rows. -/
theorem encodeA3_and (c : BitVec 4) (d m n : Reg) : encodeA3 c d m n &&& 0xF000 = c ++ (0 : BitVec 12) := by
  rw [and_class, class_encodeA3]

/-- A word of format SH under the mask of its rows. -/
theorem encodeSH_and (c : BitVec 4) (d m : Reg) (k : BitVec 5) : encodeSH c d m k &&& 0xF000 = c ++ (0 : BitVec 12) := by
  rw [and_class, class_encodeSH]

/-- A word of format J under the mask of its rows: the family and the selector. -/
theorem encodeJ_and (sel : BitVec 2) (imm9 : BitVec 9) : encodeJ sel imm9 &&& 0xF803 = encodeJ sel 0 := by
  apply BitVec.eq_of_getLsbD_eq
  intro i hi
  simp only [encodeJ, BitVec.getLsbD_and, BitVec.getLsbD_append]
  interval_cases i <;> simp

theorem nop : Statement .nop := by
  unfold Statement
  decide

theorem jmp (imm9 : BitVec 9) : Statement (.jmp imm9) := (encodeJ_and _ imm9).trans rfl

theorem jeq (imm9 : BitVec 9) : Statement (.jeq imm9) := (encodeJ_and _ imm9).trans rfl

theorem jlt (imm9 : BitVec 9) : Statement (.jlt imm9) := (encodeJ_and _ imm9).trans rfl

theorem jgt (imm9 : BitVec 9) : Statement (.jgt imm9) := (encodeJ_and _ imm9).trans rfl

theorem psh (n : Reg) : Statement (.psh n) := by
  revert n
  unfold Statement
  decide

theorem pop (d : PopReg) : Statement (.pop d) := by
  revert d
  unfold Statement
  decide

theorem cmp (m n : Reg) : Statement (.cmp m n) := by
  revert m n
  unfold Statement
  decide

theorem reserved0 (bits : BitVec 9) : Statement (.reserved0 bits) := by
  apply BitVec.eq_of_getLsbD_eq
  intro i hi
  simp only [encode, rowMask, rowMatch, BitVec.getLsbD_and, BitVec.getLsbD_append]
  interval_cases i <;> simp

theorem movReg (d m : Reg) : Statement (.movReg d m) := by
  revert d m
  unfold Statement
  decide

theorem movImm (d : Reg) (imm8 : BitVec 8) : Statement (.movImm d imm8) := by
  apply BitVec.eq_of_getLsbD_eq
  intro i hi
  simp only [encode, rowMask, rowMatch, BitVec.getLsbD_and, BitVec.getLsbD_append]
  interval_cases i <;> simp

theorem strReg (m n : Reg) : Statement (.strReg m n) := by
  revert m n
  unfold Statement
  decide

theorem strImm (m : Reg) (imm8 : BitVec 8) : Statement (.strImm m imm8) := by
  apply BitVec.eq_of_getLsbD_eq
  intro i hi
  simp only [encode, rowMask, rowMatch, BitVec.getLsbD_and, BitVec.getLsbD_append]
  interval_cases i <;> simp

theorem ldr (d m : Reg) : Statement (.ldr d m) := (encodeSH_and _ d m 0).trans rfl

theorem add (d m n : Reg) : Statement (.add d m n) := (encodeA3_and _ d m n).trans rfl

theorem sub (d m n : Reg) : Statement (.sub d m n) := (encodeA3_and _ d m n).trans rfl

theorem mul (d m n : Reg) : Statement (.mul d m n) := (encodeA3_and _ d m n).trans rfl

theorem and (d m n : Reg) : Statement (.and d m n) := (encodeA3_and _ d m n).trans rfl

theorem orr (d m n : Reg) : Statement (.orr d m n) := (encodeA3_and _ d m n).trans rfl

theorem not (d m : Reg) : Statement (.not d m) := (encodeSH_and _ d m 0).trans rfl

theorem xor (d m n : Reg) : Statement (.xor d m n) := (encodeA3_and _ d m n).trans rfl

theorem shr (d m : Reg) (k : BitVec 5) : Statement (.shr d m k) := (encodeSH_and _ d m k).trans rfl

theorem shl (d m : Reg) (k : BitVec 5) : Statement (.shl d m k) := (encodeSH_and _ d m k).trans rfl

theorem ror (d m : Reg) : Statement (.ror d m) := (encodeSH_and _ d m 0).trans rfl

theorem rol (d m : Reg) : Statement (.rol d m) := (encodeSH_and _ d m 0).trans rfl

theorem halt : Statement .halt := by
  unfold Statement
  decide

end Sys2Proof.Laws.FixedBits
end

