-- ==== Sys2Proof/Tests/Slice0.lean ====
section
/-! SUPPORT. Tests whose expected values come from spec/95_test_vectors.md and the rules' examples, and for every
statement with hypotheses a witness that meets them. -/

namespace Sys2Proof.Tests

open Sys2Proof.Machine

/-! ## Well-formedness -/

theorem test_wf_refuses_allZeroReserved : (Instr.reserved0 0).wf = false := by decide
theorem test_wf_admits_reserved : (Instr.reserved0 1).wf = true := by decide

/-! ## Decoding: words written out from the formats of spec/30_encoding.md R62 -/

/-- R100, format Z. -/
theorem test_decode_nop : decodeTableWord 16 0b0000000000000000 = some (.nop) := by decide
/-- R102: JMP #511, 0x0FFC. -/
theorem test_decode_jmp : decodeTableWord 16 0b0000111111111100 = some (.jmp 511) := by decide
/-- R103: JEQ #1, 0x0805. -/
theorem test_decode_jeq : decodeTableWord 16 0b0000100000000101 = some (.jeq 1) := by decide
/-- R104: JLT #2, 0x080A. -/
theorem test_decode_jlt : decodeTableWord 16 0b0000100000001010 = some (.jlt 2) := by decide
/-- R105: JGT #1, 0x0807. -/
theorem test_decode_jgt : decodeTableWord 16 0b0000100000000111 = some (.jgt 1) := by decide
/-- R106: PSH R7, 0x001D. -/
theorem test_decode_psh : decodeTableWord 16 0b0000000000011101 = some (.psh 7) := by decide
/-- R107: POP R3 with bit 10 set, 0x0702. -/
theorem test_decode_pop : decodeTableWord 16 0b0000011100000010 = some (.pop 3) := by decide
/-- R108: CMP R0, R1, 0x0007. -/
theorem test_decode_cmp : decodeTableWord 16 0b0000000000000111 = some (.cmp 0 1) := by decide
/-- R70: 0x0400. -/
theorem test_decode_reserved0 : decodeTableWord 16 0b0000010000000000 = some (.reserved0 256) := by decide
/-- R120: MOV R1, R3, 0x1160. -/
theorem test_decode_movReg : decodeTableWord 16 0b0001000101100000 = some (.movReg 1 3) := by decide
/-- R121: MOV R0, #7, 0x1807. -/
theorem test_decode_movImm : decodeTableWord 16 0b0001100000000111 = some (.movImm 0 7) := by decide
/-- R122: STR [R2], R5, 0x2054. -/
theorem test_decode_strReg : decodeTableWord 16 0b0010000001010100 = some (.strReg 2 5) := by decide
/-- R123: STR [R1], #171, 0x2D2B. -/
theorem test_decode_strImm : decodeTableWord 16 0b0010110100101011 = some (.strImm 1 171) := by decide
/-- R124: LDR R3, [R2], 0x3340. -/
theorem test_decode_ldr : decodeTableWord 16 0b0011001101000000 = some (.ldr 3 2) := by decide
/-- R135: ADD R0, R1, R2, 0x4028. -/
theorem test_decode_add : decodeTableWord 16 0b0100000000101000 = some (.add 0 1 2) := by decide
/-- R136: SUB R0, R1, R2, 0x5028. -/
theorem test_decode_sub : decodeTableWord 16 0b0101000000101000 = some (.sub 0 1 2) := by decide
/-- R137: MUL R0, R1, R2, 0x6028. -/
theorem test_decode_mul : decodeTableWord 16 0b0110000000101000 = some (.mul 0 1 2) := by decide
/-- R150: AND R0, R1, R2, 0x7028. -/
theorem test_decode_and : decodeTableWord 16 0b0111000000101000 = some (.and 0 1 2) := by decide
/-- R151: ORR R0, R1, R2, 0x8028. -/
theorem test_decode_orr : decodeTableWord 16 0b1000000000101000 = some (.orr 0 1 2) := by decide
/-- R153, R69: NOT R0, R1 with bits [4:0] set, 0x903F. -/
theorem test_decode_not : decodeTableWord 16 0b1001000000111111 = some (.not 0 1) := by decide
/-- R152: XOR R0, R1, R2, 0xA028. -/
theorem test_decode_xor : decodeTableWord 16 0b1010000000101000 = some (.xor 0 1 2) := by decide
/-- R160: SHR R0, R1, #4, 0xB024. -/
theorem test_decode_shr : decodeTableWord 16 0b1011000000100100 = some (.shr 0 1 4) := by decide
/-- R161: SHL R0, R1, #4, 0xC024. -/
theorem test_decode_shl : decodeTableWord 16 0b1100000000100100 = some (.shl 0 1 4) := by decide
/-- R162: ROR R0, R1, 0xD020. -/
theorem test_decode_ror : decodeTableWord 16 0b1101000000100000 = some (.ror 0 1) := by decide
/-- R163: ROL R0, R1, 0xE020. -/
theorem test_decode_rol : decodeTableWord 16 0b1110000000100000 = some (.rol 0 1) := by decide
/-- R71: 0xFABC. -/
theorem test_decode_halt : decodeTableWord 16 0b1111101010111100 = some (.halt) := by decide

/-- C1: `0x1007` is MOV R0, R0. -/
theorem test_decode_movReg_ignores_low_bits : decodeTableWord 16 0x1007 = some (.movReg 0 0) := by decide

/-- R73's words. -/
theorem test_encode_strImm : encode defaultClassMap (.strImm 1 171) = 0x2D2B := by decide
theorem test_encode_sub : encode defaultClassMap (.sub 0 1 2) = 0x5028 := by decide

/-! ## One step from reset, with given registers -/

/-- The machine after reset with the word `w` to fetch and the registers R0..R3 as given. -/
def atWord (w : Nat) (r0 r1 r2 r3 : Word) : State :=
  { State.reset.withFetchWord 16 w with x := #v[r0, r1, r2, r3, 0, 0, 0, 0] }

/-- As `atWord`, with C and Ov set. -/
def atWordCOv (w : Nat) (r0 r1 r2 r3 : Word) : State :=
  { atWord w r0 r1 r2 r3 with flags := ⟨true, true, false, false⟩ }

/-- What one step leaves, seen through `f`. -/
def see {α : Type} (s : State) (f : State → α) : Option α :=
  match step s with
  | .next t => some (f t)
  | _ => none

/-- Section 2.1. -/
theorem test_nop : see (atWord 0x0000 1 2 3 4) (fun t => (t.x, t.pc, t.events)) = some (#v[1, 2, 3, 4, 0, 0, 0, 0], 2, []) := by decide
/-- Section 2.1. -/
theorem test_reserved0 : see (atWord 0x0004 1 2 3 4) (fun t => (t.engineState, t.stopReason, t.pc)) = some (.halted, .reservedEncoding, 2) := by decide
/-- Section 7. -/
theorem test_halt : see (atWord 0xFABC 1 2 3 4) (fun t => (t.engineState, t.stopReason, t.pc)) = some (.halted, .haltInstruction, 2) := by decide
/-- Section 2.2. -/
theorem test_jmp : see (atWord 0x0FFC 0 0 0 0) (fun t => t.pc) = some 0x0201 := by decide
/-- Section 2.2. -/
theorem test_jmp_wraps : see ({ State.reset with pc := 0xFDFF }.withFetchWord 16 0x0FFC) (fun t => t.pc) = some 0 := by decide
/-- Section 2.2, reset flags. -/
theorem test_jeq_not_taken : see (atWord 0x0805 0 0 0 0) (fun t => t.pc) = some 2 := by decide
/-- Section 2.2. -/
theorem test_jeq_taken : see { atWord 0x0805 0 0 0 0 with flags := ⟨false, false, true, false⟩ } (fun t => t.pc) = some 3 := by decide
/-- Section 2.2. -/
theorem test_jlt_taken : see { atWord 0x080A 0 0 0 0 with flags := ⟨false, false, false, true⟩ } (fun t => t.pc) = some 4 := by decide
/-- Section 2.2, reset flags. -/
theorem test_jgt_taken : see (atWord 0x0807 0 0 0 0) (fun t => t.pc) = some 3 := by decide
/-- Section 2.2. -/
theorem test_jgt_not_taken : see { atWord 0x0807 0 0 0 0 with flags := ⟨false, false, false, true⟩ } (fun t => t.pc) = some 2 := by decide
/-- Section 2.4. -/
theorem test_psh : see (atWord 0x0005 0 0xBEEF 0 0) (fun t => (t.readByte 0x8200, t.readByte 0x8201, t.sp)) = some (0xEF, 0xBE, 0x81FE) := by decide
/-- Section 2.4. -/
theorem test_psh_full : see { atWord 0x0005 0 0x1111 0 0 with sp := 0x81F0 } (fun t => (t.readByte 0x81F0, t.sp, t.events)) = some (0, 0x81F0, [.diag .pushDropped]) := by decide
/-- Section 2.4. -/
theorem test_pop : see { (atWord 0x0202 0 0 0 0).writeWord 0x8200 0xBEEF with sp := 0x81FE } (fun t => (t.reg 2, t.sp)) = some (0xBEEF, 0x8200) := by decide
/-- Section 2.4. -/
theorem test_pop_empty : see (atWord 0x0302 0 0 0 0x0055) (fun t => (t.reg 3, t.sp, t.events)) = some (0x0055, 0x8200, [.diag .popEmpty]) := by decide
/-- Section 2.3. -/
theorem test_cmp_unsigned : see (atWordCOv 0x0007 1 0x8000 0 0) (fun t => t.flags) = some ⟨true, true, false, true⟩ := by decide
/-- Section 2.3. -/
theorem test_cmp_greater : see (atWordCOv 0x0007 0xFFFF 0 0 0) (fun t => t.flags) = some ⟨true, true, false, false⟩ := by decide
/-- Section 3. -/
theorem test_movReg : see (atWord 0x1160 0 0 0 0x1234) (fun t => t.reg 1) = some 0x1234 := by decide
/-- Section 3. -/
theorem test_movImm_zero_keeps_Z : see (atWord 0x1800 0x1234 0 0 0) (fun t => (t.reg 0, t.flags.z)) = some (0, false) := by decide
/-- Section 3. -/
theorem test_strReg_wraps : see (atWord 0x2044 0 0xCDEF 0xFFFF 0) (fun t => (t.readByte 0xFFFF, t.readByte 0)) = some (0xEF, 0xCD) := by decide
/-- Section 3. -/
theorem test_strReg_base_is_value : see (atWord 0x2048 0 0 0x0400 0) (fun t => (t.readByte 0x0400, t.readByte 0x0401)) = some (0x00, 0x04) := by decide
/-- Section 3. -/
theorem test_strImm : see (atWord 0x2D2B 0 0x0040 0 0) (fun t => (t.readByte 0x0040, t.readByte 0x0041)) = some (0xAB, 0x00) := by decide
/-- Section 3. -/
theorem test_strImm_zero_high : see ((atWord 0x2820 0 0x0300 0 0).writeWord 0x0300 0x7777) (fun t => t.readWord 0x0300) = some 0 := by decide
/-- Section 3. -/
theorem test_ldr_base_is_destination : see ((atWord 0x3240 0 0 0x0100 0).writeWord 0x0100 0xA1B2) (fun t => t.reg 2) = some 0xA1B2 := by decide
/-- Section 3. -/
theorem test_ldr_odd : see (((atWord 0x3040 0 0 0x0101 0).writeWord 0x0100 0xA1B2).writeWord 0x0102 0xD4C3) (fun t => t.reg 0) = some 0xC3A1 := by decide
/-- Section 4. -/
theorem test_add_carry : see (atWord 0x4028 0 0xFFFF 1 0) (fun t => (t.reg 0, t.flags)) = some (0, ⟨true, false, true, false⟩) := by decide
/-- Section 4. -/
theorem test_add_overflow : see (atWord 0x4028 0 0x7FFF 1 0) (fun t => (t.reg 0, t.flags)) = some (0x8000, ⟨false, true, false, true⟩) := by decide
/-- Section 4. -/
theorem test_sub_borrow : see (atWord 0x5028 0 0 1 0) (fun t => (t.reg 0, t.flags)) = some (0xFFFF, ⟨true, false, false, true⟩) := by decide
/-- Section 4. -/
theorem test_sub_overflow : see (atWord 0x5028 0 0x8000 1 0) (fun t => (t.reg 0, t.flags)) = some (0x7FFF, ⟨false, true, false, false⟩) := by decide
/-- Section 4. -/
theorem test_mul_heuristic_carry : see (atWord 0x6028 0 0xFFFF 1 0) (fun t => (t.reg 0, t.flags)) = some (0xFFFF, ⟨true, false, false, true⟩) := by decide
/-- Section 4. -/
theorem test_mul_overflow : see (atWord 0x6028 0 0x8000 0x8000 0) (fun t => (t.reg 0, t.flags)) = some (0, ⟨true, true, true, false⟩) := by decide
/-- Section 4, destination also a source. -/
theorem test_add_same_register : see (atWord 0x4124 0 0x8000 0 0) (fun t => (t.reg 1, t.flags)) = some (0, ⟨true, true, true, false⟩) := by decide
/-- Section 5. -/
theorem test_and : see (atWordCOv 0x7028 0 0xF0F0 0x0FF0 0) (fun t => (t.reg 0, t.flags)) = some (0x00F0, ⟨true, true, false, false⟩) := by decide
/-- Section 5. -/
theorem test_orr : see (atWordCOv 0x8028 0 0xF000 0x000F 0) (fun t => (t.reg 0, t.flags)) = some (0xF00F, ⟨true, true, false, true⟩) := by decide
/-- Section 5. -/
theorem test_xor : see (atWordCOv 0xA028 0 0x5A5A 0x5A5A 0) (fun t => (t.reg 0, t.flags)) = some (0, ⟨true, true, true, false⟩) := by decide
/-- Section 5. -/
theorem test_not : see (atWordCOv 0x9020 0 0x00FF 0 0) (fun t => (t.reg 0, t.flags)) = some (0xFF00, ⟨true, true, false, true⟩) := by decide
/-- Section 6, k = 16. -/
theorem test_shr_last_bit_out : see (atWordCOv 0xB030 0 0x8001 0 0) (fun t => (t.reg 0, t.flags)) = some (0, ⟨true, true, true, false⟩) := by decide
/-- Section 6, k = 0. -/
theorem test_shr_zero_draws : see (atWordCOv 0xB020 0 0x8001 0 0) (fun t => (t.reg 0, t.flags.ov, t.draws, t.events)) = some (0x8001, true, 1, [.diag .shiftFlagUndefined]) := by decide
/-- Section 6, k = 4. -/
theorem test_shl_last_bit_out : see (atWord 0xC024 0 0x1234 0 0) (fun t => (t.reg 0, t.flags)) = some (0x2340, ⟨true, true, false, false⟩) := by decide
/-- Section 6, k = 17. -/
theorem test_shl_beyond_draws : see (atWord 0xC031 0 0x1234 0 0) (fun t => (t.reg 0, t.flags.z, t.flags.s, t.draws)) = some (0, true, false, 2) := by decide
/-- Section 6. -/
theorem test_ror : see (atWordCOv 0xD020 0 0x0001 0 0) (fun t => (t.reg 0, t.flags)) = some (0x8000, ⟨true, true, false, true⟩) := by decide
/-- Section 6. -/
theorem test_ror_not_through_carry : see (atWordCOv 0xD020 0 0 0 0) (fun t => (t.reg 0, t.flags)) = some (0, ⟨false, true, true, false⟩) := by decide
/-- Section 6. -/
theorem test_rol : see (atWordCOv 0xE020 0 0x8001 0 0) (fun t => (t.reg 0, t.flags)) = some (0x0003, ⟨true, true, false, false⟩) := by decide
/-- Section 7: the test comes before the fetch. -/
theorem test_end_of_image : see { State.reset.withFetchWord 16 0xF000 with pc := 2 } (fun t => (t.engineState, t.stopReason, t.pc)) = some (.halted, .endOfImage, 2) := by decide
/-- R181. -/
theorem test_stop_codes : (StopReason.none.code, StopReason.endOfImage.code, StopReason.haltInstruction.code, StopReason.reservedEncoding.code) = (0, 1, 2, 3) := by decide

/-! ## The host's operations -/

/-- What an operation leaves, seen through `f`. -/
def seeOutcome {α : Type} (o : Host.Outcome State Fault Refusal) (f : State → α) : Option α :=
  match o with
  | .next t => some (f t)
  | _ => none

/-- P9: the last pair of a load decides `IMAGE_END`, and the word above it stays loaded. -/
theorem test_load_order : seeOutcome (hostLoad [(0x0002, 0x1901), (0x0000, 0x1807)] State.reset)
    (fun t => (t.imageEnd, t.readWord 0, t.readWord 2)) = some (2, 0x1807, 0x1901) := by decide

/-- R203, D6: a pair at 0xFFFF puts its high byte at address 0, and `IMAGE_END` is 0x10001. -/
theorem test_load_wraps : seeOutcome (hostLoad [(0xFFFF, 0x1234)] State.reset)
    (fun t => (t.imageEnd, t.readByte 0xFFFF, t.readByte 0)) = some (0x10001, 0x34, 0x12) := by decide

/-- R206: while a run is in progress a load is turned away; before the first run and in HALTED it is not. -/
theorem test_load_during_run :
    hostLoad [(0, 0x1807)] State.reset.runReset = .refused .runInProgress ∧
      seeOutcome (hostLoad [(0, 0x1807)] State.reset) State.inRun = some false ∧
      seeOutcome (hostLoad [(0, 0x1807)] (State.reset.runReset.stop .haltInstruction)) State.inRun = some false :=
  ⟨rfl, by decide, by decide⟩

/-- R206: nor can the host run again during a run that a step has carried on. -/
theorem test_run_during_run :
    (match step (State.reset.withFetchWord 16 0x1807) with | .next t => hostRun t | o => o) = .refused .runInProgress := rfl

/-! ## Witnesses: for every statement with hypotheses, a state and operands that meet them; for a statement with several
clauses, one at a boundary of each -/

/-- A loaded machine: MOV R0, #7 at address 0, one pair. -/
def loaded : State := State.reset.withFetchWord 16 0x1807

/-- A configuration outside D1: an odd stack size. -/
def oddStack : State := { State.reset with cfg := { resetConfig with stackSize := 15 } }

theorem witness_RunResetsAllButMemory :
    loaded.cfg.wf = true ∧ 2 ≤ loaded.imageEnd ∧ loaded.inRun = false := by decide

theorem witness_HostRefusals :
    (State.reset.cfg.wf = true ∧ State.reset.imageEnd < 2) ∧ oddStack.cfg.wf = false := by decide

theorem witness_LoadWritesPairsInOrder :
    Memory.wf State.reset.mem = true ∧ State.reset.inRun = false ∧ ([(0, 1), (2, 3)] : List (Word × Word)) ++ [(4, 5)] = [(0, 1)] ++ (2, 3) :: [(4, 5)] ∧
      (∀ r ∈ ([(4, 5)] : List (Word × Word)), r.1 ≠ 2 ∧ r.1 ≠ 2 + 1 ∧ r.1 + 1 ≠ (2 : Word)) ∧
      (∀ q ∈ ([(0, 1), (2, 3)] : List (Word × Word)) ++ [(4, 5)], (6 : Word) ≠ q.1 ∧ (6 : Word) ≠ q.1 + 1) := by
  refine ⟨by decide, rfl, rfl, ?_, ?_⟩ <;> simp

theorem witness_HostCannotDisturbRun :
    (∃ t, hostRun loaded = .next t) ∧ (∃ t, step loaded = .next t) ∧
      (loaded.runReset.inRun = true ∧ loaded.runReset.cfg.wf = true ∧ 2 ≤ loaded.runReset.imageEnd) ∧
      (loaded.runReset.stop .haltInstruction).engineState = .halted := ⟨⟨_, rfl⟩, ⟨_, rfl⟩, by decide, rfl⟩

theorem witness_ReadoutOnlyInHalted :
    (loaded.stop .endOfImage).engineState = .halted ∧ loaded.engineState ≠ .halted := by decide

theorem witness_EveryRunBeginsInInvariant :
    Memory.wf State.reset.mem = true ∧ State.reset.cfg.wf = true ∧ State.reset.inRun = false ∧ ([(0, 0x1807)] : List (Word × Word)) ≠ [] := by decide

theorem witness_WordWriteChangesTwoBytes :
    Memory.wf loaded.mem = true ∧ (5 : Word) ≠ 0 ∧ (5 : Word) ≠ 0 + 1 := by decide

theorem witness_DecodeOfEncode :
    defaultClassMap.wf = true ∧ (Instr.reserved0 1).wf = true ∧ (Instr.shl 7 7 31).wf = true := by decide

theorem witness_EncodeOfDecode :
    defaultClassMap.wf = true := by decide

theorem witness_EveryWordIsOneInstruction :
    defaultClassMap.wf = true ∧ (0x1007 : Word) ≠ 0x1000 ∧
      (0x1007 : Word) &&& namedBits (decode defaultClassMap 0x1000) = 0x1000 &&& namedBits (decode defaultClassMap 0x1000) := by decide

theorem witness_OpcodeTableRowsDecode_low :
    (0x0FFC : Word) &&& 0xF803 = 0x0800 ∧
      (0x0FFD : Word) &&& 0xF803 = 0x0801 ∧
      (0x0FFE : Word) &&& 0xF803 = 0x0802 ∧
      (0x0FFF : Word) &&& 0xF803 = 0x0803 ∧
      (0x07FD : Word) &&& 0xF803 = 0x0001 ∧
      (0x07FE : Word) &&& 0xF803 = 0x0002 ∧
      (0x07FF : Word) &&& 0xF803 = 0x0003 ∧
      (0x07FC : Word) &&& 0xF803 = 0x0000 ∧
      (0x17FF : Word) &&& 0xF800 = 0x1000 ∧
      (0x1FFF : Word) &&& 0xF800 = 0x1800 ∧
      (0x27FF : Word) &&& 0xF800 = 0x2000 ∧
      (0x2FFF : Word) &&& 0xF800 = 0x2800 ∧ (0x07FC : Word) ≠ 0 := by decide

/-- Also the words of class 3 and of each class of `CLASS_MAP` that the statements of single instructions ask for. -/
theorem witness_OpcodeTableRowsDecode_classes :
    (0x3FFF : Word) &&& 0xF000 = 0x3000 ∧
      (0x4FFF : Word) &&& 0xF000 = 0x4000 ∧
      (0x5FFF : Word) &&& 0xF000 = 0x5000 ∧
      (0x6FFF : Word) &&& 0xF000 = 0x6000 ∧
      (0x7FFF : Word) &&& 0xF000 = 0x7000 ∧
      (0x8FFF : Word) &&& 0xF000 = 0x8000 ∧
      (0x9FFF : Word) &&& 0xF000 = 0x9000 ∧
      (0xAFFF : Word) &&& 0xF000 = 0xA000 ∧
      (0xBFFF : Word) &&& 0xF000 = 0xB000 ∧
      (0xCFFF : Word) &&& 0xF000 = 0xC000 ∧
      (0xDFFF : Word) &&& 0xF000 = 0xD000 ∧
      (0xEFFF : Word) &&& 0xF000 = 0xE000 ∧
      (0xFFFF : Word) &&& 0xF000 = 0xF000 := by decide

/-- A word of each ALU or shift instruction under a class map. -/
theorem witness_classMap_classes :
    AluOp.all.all (fun op => decide (defaultClassMap.opAt (defaultClassMap.classOf op) = some op)) = true ∧
      fieldClass 0x4FFF = defaultClassMap.classOf .add ∧ fieldClass 0xEFFF = defaultClassMap.classOf .rol := by decide

theorem witness_StepRunsDecodedInstruction :
    loaded.engineState = .fetching ∧ loaded.pc.toNat < loaded.imageEnd ∧
      decode loaded.cfg.classMap (loaded.readWord loaded.pc) = .movImm 0 7 := by decide

theorem witness_EndOfImageStops :
    ({ loaded with pc := 2 } : State).engineState = .fetching ∧ ({ loaded with pc := 2 } : State).imageEnd ≤ ({ loaded with pc := 2 } : State).pc.toNat := by decide

theorem witness_HaltedHasNoStep :
    ((loaded.stop .endOfImage).engineState = .halted ∧ (loaded.stop .endOfImage).stopReason ≠ .reservedEncoding) ∧
      ((loaded.stop .reservedEncoding).engineState = .halted ∧ (loaded.stop .reservedEncoding).stopReason = .reservedEncoding) ∧
      (loaded.entered .halt).engineState = .decoding ∧ (loaded.entered .nop).engineState = .executing := by decide

theorem witness_loaded_inv :
    loaded.Inv := by
  constructor <;> decide

theorem witness_StepKeepsInvariant :
    loaded.Inv ∧ ∃ t, step loaded = .next t := by
  exact ⟨witness_loaded_inv, _, rfl⟩

theorem witness_EngineHaltsInExactlyThreeCases :
    ({ loaded with pc := 2 } : State).imageEnd ≤ ({ loaded with pc := 2 } : State).pc.toNat ∧
      (State.reset.withFetchWord 16 0xF000).fetchedInstr = .halt ∧
      (State.reset.withFetchWord 16 0x0004).fetchedInstr = .reserved0 1 ∧
      (State.reset.withFetchWord 16 0xF000).pc.toNat < (State.reset.withFetchWord 16 0xF000).imageEnd ∧
      (State.reset.withFetchWord 16 0x0004).pc.toNat < (State.reset.withFetchWord 16 0x0004).imageEnd ∧
      loaded.engineState = .fetching ∧ loaded.pc.toNat < loaded.imageEnd ∧ loaded.fetchedInstr = .movImm 0 7 := by decide

theorem witness_BoundedImageRunHalts :
    loaded.engineState = .fetching ∧ loaded.pc = 0 ∧ loaded.imageEnd ≤ 0xFDFF := by decide

theorem witness_StepKeepsImageEndAndParameters :
    ∃ t, step loaded = .next t := ⟨_, rfl⟩

theorem witness_StoreSeenByNextFetch :
    Memory.wf (atWord 0x2044 0 0xF000 2 0).mem = true ∧ (atWord 0x2044 0 0xF000 2 0).engineState = .fetching ∧
      (atWord 0x2044 0 0xF000 2 0).pc.toNat < (atWord 0x2044 0 0xF000 2 0).imageEnd ∧
      (atWord 0x2044 0 0xF000 2 0).fetchedInstr = .strReg 2 1 ∧
      (atWord 0x2044 0 0xF000 2 0).reg 2 = (atWord 0x2044 0 0xF000 2 0).pc + 2 := by decide

theorem witness_NoInstructionTraps :
    entersExecuting .nop = true := by decide

theorem witness_RegistersWrittenByTable :
    (∃ t, exec (.add 0 1 2) loaded = .next t) ∧ regWritten (.add 0 1 2) ≠ some 3 ∧
      (∃ t, exec (.pop 0) loaded = .next t) ∧ loaded.canPop = false := ⟨⟨_, rfl⟩, by decide, ⟨_, rfl⟩, by decide⟩

theorem witness_FlagsWrittenByTable :
    (∃ t, exec (.psh 0) loaded = .next t) ∧ writesC (.psh 0) = false ∧ writesOv (.psh 0) = false ∧ writesZS (.psh 0) = false := ⟨⟨_, rfl⟩, rfl, rfl, rfl⟩

theorem witness_StackPointerOnlyByPshPop :
    (∃ t, exec (.psh 3) loaded = .next t) ∧ (∃ t, exec (.pop 3) loaded = .next t) ∧ (∃ t, exec .halt loaded = .next t) := ⟨⟨_, rfl⟩, ⟨_, rfl⟩, ⟨_, rfl⟩⟩

theorem witness_ProgramCounterOnlyByJumps :
    (∃ t, exec (.ldr 0 1) loaded = .next t) ∧ isJump (.ldr 0 1) = false := ⟨⟨_, rfl⟩, rfl⟩

theorem witness_MemoryOnlyByStores :
    Memory.wf loaded.mem = true ∧ (∃ t, exec (.psh 1) loaded = .next t) ∧ storeAddr loaded (.psh 1) = some 0x8200 ∧
      storeAddr { loaded with sp := 0x81F0 } (.psh 1) = none := ⟨by decide, ⟨_, rfl⟩, by decide, by decide⟩

theorem witness_DrawsAndEventsAsListed :
    ∃ t, exec (.shr 0 1 0) loaded = .next t := ⟨_, rfl⟩

theorem witness_NoInstructionReadsCOrOv :
    ∃ t, exec (.jeq 5) loaded = .next t := ⟨_, rfl⟩

theorem witness_JumpsAddWhenConditionHolds :
    (0x0800 : Word) &&& 0xF803 = 0x0800 ∧ (0x0805 : Word) &&& 0xF803 = 0x0801 ∧
      (0x080A : Word) &&& 0xF803 = 0x0802 ∧ (0x0FFF : Word) &&& 0xF803 = 0x0803 ∧
      (Instr.jgt 511 = .jgt 511 ∧ (True ↔ loaded.flags.z = false ∧ loaded.flags.s = false)) ∧
      (Instr.jeq 0 = .jeq 0 ∧ (False ↔ loaded.flags.z = true ∧ loaded.flags.s = false)) := by decide

/-- The floor of the configuration is 0x81F0. -/
theorem witness_PushStoresThenDecrements :
    (0x0005 : Word) &&& 0xF803 = 0x0001 ∧
      Memory.wf loaded.mem = true ∧ loaded.cfg.floor < ((0x81F1 : Word).toNat : Int) ∧ ((0x81F0 : Word).toNat : Int) ≤ loaded.cfg.floor := by decide

theorem witness_PopIncrementsThenLoads :
    (0x0702 : Word) &&& 0xF803 = 0x0002 ∧
      (loaded.cfg.floor ≤ ((0x81F0 : Word).toNat : Int) ∧ (0x81F0 : Word).toNat < loaded.cfg.stackStart.toNat) ∧
      (loaded.cfg.floor ≤ ((0x81FF : Word).toNat : Int) ∧ (0x81FF : Word).toNat < loaded.cfg.stackStart.toNat) ∧
      ¬ (0x8200 : Word).toNat < loaded.cfg.stackStart.toNat ∧ ¬ loaded.cfg.floor ≤ ((0x81EF : Word).toNat : Int) := by decide

theorem witness_StrStoresRegister :
    (0x2054 : Word) &&& 0xF800 = 0x2000 ∧ Memory.wf loaded.mem = true := by decide

theorem witness_StrStoresImmediate :
    (0x2D2B : Word) &&& 0xF800 = 0x2800 ∧ Memory.wf loaded.mem = true := by decide

theorem witness_MovCopiesRegister :
    (0x1160 : Word) &&& 0xF800 = 0x1000 := by decide

theorem witness_MovLoadsImmediate :
    (0x1FFF : Word) &&& 0xF800 = 0x1800 := by decide

theorem witness_LdrLoadsWord :
    (0x3340 : Word) &&& 0xF000 = 0x3000 := by decide

theorem witness_CompareSetsZeroAndSign :
    (0x0703 : Word) &&& 0xF803 = 0x0003 := by decide

theorem witness_AddResultAndFlags :
    defaultClassMap.opAt (fieldClass 0x4028) = some .add := by decide

theorem witness_SubResultAndFlags :
    defaultClassMap.opAt (fieldClass 0x5028) = some .sub := by decide

theorem witness_MulResultAndFlags :
    defaultClassMap.opAt (fieldClass 0x6028) = some .mul := by decide

theorem witness_HaltStops :
    (0xF000 : Word).toNat / 4096 = 15 ∧ (0xFFFF : Word).toNat / 4096 = 15 := by decide

theorem witness_ReservedWordsExactly :
    decode defaultClassMap 0x0004 = .reserved0 1 ∧ decode defaultClassMap 0x07FC = .reserved0 511 := by decide

theorem witness_AddSubRoundTrip :
    (0xFFFF < 65536 ∧ 1 < 65536) ∧ (2 : Reg) ≠ 1 := by decide

theorem witness_LogicResultsAndFlags :
    defaultClassMap.opAt (fieldClass 0x7028) = some .and ∧ defaultClassMap.opAt (fieldClass 0x8028) = some .orr ∧
      defaultClassMap.opAt (fieldClass 0xA028) = some .xor ∧ defaultClassMap.opAt (fieldClass 0x9020) = some .not ∧
      Instr.and 0 1 2 = .and 0 1 2 ∧ Instr.not 0 1 = .not 0 1 ∧ (15 : Nat) < 16 := by decide

/-- Each clause of the count at its boundary values. -/
theorem witness_ShrResultAndFlags :
    defaultClassMap.opAt (fieldClass 0xB024) = some .shr ∧ (0 : BitVec 5).toNat = 0 ∧
      (1 ≤ (1 : BitVec 5).toNat ∧ (1 : BitVec 5).toNat ≤ 16) ∧ (1 ≤ (16 : BitVec 5).toNat ∧ (16 : BitVec 5).toNat ≤ 16) ∧
      17 ≤ (17 : BitVec 5).toNat ∧ 17 ≤ (31 : BitVec 5).toNat := by decide

/-- Each clause of the count at its boundary values. -/
theorem witness_ShlResultAndFlags :
    defaultClassMap.opAt (fieldClass 0xC024) = some .shl ∧ (0 : BitVec 5).toNat = 0 ∧
      (1 ≤ (1 : BitVec 5).toNat ∧ (1 : BitVec 5).toNat ≤ 16) ∧ (1 ≤ (16 : BitVec 5).toNat ∧ (16 : BitVec 5).toNat ≤ 16) ∧
      17 ≤ (17 : BitVec 5).toNat ∧ 17 ≤ (31 : BitVec 5).toNat := by decide

theorem witness_RotateResultsAndFlags :
    defaultClassMap.opAt (fieldClass 0xD020) = some .ror ∧ defaultClassMap.opAt (fieldClass 0xE020) = some .rol ∧
      1 = ((atWord 0 0 0x8001 0 0).reg 1).toNat % 2 ∧ 49152 = ((atWord 0 0 0x8001 0 0).reg 1).toNat / 2 + 1 * 32768 ∧
      1 = ((atWord 0 0 0x8001 0 0).reg 1).toNat / 32768 ∧ 3 = ((atWord 0 0 0x8001 0 0).reg 1).toNat * 2 % 65536 + 1 := by decide

theorem witness_PushPopRoundTrip :
    Memory.wf loaded.mem = true ∧ loaded.cfg.wf = true ∧ loaded.cfg.floor + 2 ≤ ((0x81F2 : Word).toNat : Int) ∧
      (0x81F2 : Word).toNat ≤ loaded.cfg.stackStart.toNat ∧ loaded.cfg.floor + 2 ≤ (loaded.sp.toNat : Int) ∧
      loaded.sp.toNat ≤ loaded.cfg.stackStart.toNat := by decide

theorem witness_StackIsLastInFirstOut :
    Memory.wf loaded.mem = true ∧ loaded.cfg.wf = true ∧
      loaded.cfg.floor + 2 * (([0, 1, 2, 3, 4, 5, 6, 7] : List Reg).length : Int) ≤ (loaded.sp.toNat : Int) ∧
      loaded.sp.toNat ≤ loaded.cfg.stackStart.toNat := by decide

theorem witness_StackHoldsHalfItsSize :
    loaded.cfg.wf = true ∧ loaded.sp = loaded.cfg.stackStart := by decide

theorem witness_StoreThenLoad :
    Memory.wf loaded.mem = true ∧ (loaded.writeWord (loaded.reg 1) (loaded.reg 2)).reg 1 = loaded.reg 1 ∧
      ∃ t, exec (.strReg 1 2) loaded = .next t ∧ t.reg 1 = loaded.reg 1 ∧ t.readByte (loaded.reg 1) = t.readByte (loaded.reg 1) := ⟨by decide, by decide, _, rfl, by decide, rfl⟩

end Sys2Proof.Tests
end

section
/-! PROOF of O32 (family 00_scope.md). Where draws are taken and events emitted (spec/00_scope.md R17,
spec/60_exceptions.md R182, R184). -/

namespace Sys2Proof.Machine

/-! ## The shifts' draws and events -/

/-- The count is read unsigned, so only the zero field gives the zero count (R63). -/
theorem shiftCount_eq_zero_iff (k : BitVec 5) : shiftCount k = 0 ↔ k = 0 := by
  simp [shiftCount, ← BitVec.toNat_inj]

/-- SHR draws its C exactly when nothing is shifted out (R160). -/
@[simp] theorem State.shiftRight_draws (s : State) (d m : Reg) (k : Nat) :
    (s.shiftRight d m k).draws = if k = 0 then s.draws + 1 else s.draws := by
  cases k with
  | zero => simp [State.shiftRight_zero]
  | succ k => simp [State.shiftRight_succ]

/-- SHR reports the draw of its C (R160, R182). -/
@[simp] theorem State.shiftRight_events (s : State) (d m : Reg) (k : Nat) :
    (s.shiftRight d m k).events = if k = 0 then s.events ++ [.diag .shiftFlagUndefined] else s.events := by
  cases k with
  | zero => simp [State.shiftRight_zero]
  | succ k => simp [State.shiftRight_succ]

/-- SHL draws C and Ov exactly when the count passes the width (R161). -/
@[simp] theorem State.shiftLeft_draws (s : State) (d m : Reg) (k : Nat) :
    (s.shiftLeft d m k).draws = if 16 < k then s.draws + 2 else s.draws := by
  by_cases hk : 16 < k
  · simp [State.shiftLeft_gt s d m k hk, hk]
  · simp [State.shiftLeft_le s d m k (Nat.le_of_not_lt hk), hk]

/-- SHL reports its two draws by one event (R161, R182). -/
@[simp] theorem State.shiftLeft_events (s : State) (d m : Reg) (k : Nat) :
    (s.shiftLeft d m k).events = if 16 < k then s.events ++ [.diag .shiftFlagUndefined] else s.events := by
  by_cases hk : 16 < k
  · simp [State.shiftLeft_gt s d m k hk, hk]
  · simp [State.shiftLeft_le s d m k (Nat.le_of_not_lt hk), hk]

/-! ## Over all instructions -/

/-- An instruction advances the draw counter by the draws the spec lists for it; only SHR and SHL draw (R17). -/
theorem exec_draws {i : Instr} {s t : State} (h : exec i s = .next t) : t.draws = s.draws + drawsTaken i := by
  cases i <;> rw [next_inj h]
  case shr | shl =>
    simp only [State.shiftRight_draws, State.shiftLeft_draws, drawsTaken, shiftCount_eq_zero_iff]
    split <;> rfl
  all_goals simp [drawsTaken, State.arith_eq, State.logic_eq]

/-- An instruction appends the events the spec lists for it: a NOP's dump, the report of a dropped push, of an empty
pop, or of a shift whose flags are drawn; no other instruction emits (R182). -/
theorem exec_events {i : Instr} {s t : State} (h : exec i s = .next t) : t.events = s.events ++ eventsOf s i := by
  cases i <;> rw [next_inj h]
  case nop | psh | pop | shr | shl =>
    simp only [State.emitIf_events, State.push_events, State.pop_events, State.shiftRight_events,
      State.shiftLeft_events, eventsOf, shiftCount_eq_zero_iff]
    split <;> simp
  all_goals simp [eventsOf, State.arith_eq, State.logic_eq]

/-- No instruction's list holds two events: it is one event under a condition, or none at all (R184). -/
theorem eventsOf_length_le_one (s : State) (i : Instr) : (eventsOf s i).length ≤ 1 := by
  cases i
  case nop | psh | pop | shr | shl =>
    simp only [eventsOf]
    split <;> simp
  all_goals exact Nat.zero_le 1

/-- Settles O32, by the split over the instructions in `exec_draws`, `exec_events` and `eventsOf_length_le_one`. -/
theorem drawsAndEventsAsListed : Obligations.DrawsAndEventsAsListed :=
  fun i s _ h => ⟨exec_draws h, exec_events h, eventsOf_length_le_one s i⟩

end Sys2Proof.Machine
end

section
/-! PROOF of O20, O24, O27, O28, O29, O30, O33, O1 (family 10_state.md). What one instruction does to each field of the
state (spec/10_state.md R22-R31), and from that what every step keeps. -/

namespace Sys2Proof.Machine

/-! ## Fields after a shift, and flags after a flag update -/

section

variable (s : State) (d m : Reg) (k : Nat)

@[simp] theorem State.shiftRight_pc : (s.shiftRight d m k).pc = s.pc := by simp [State.shiftRight]
@[simp] theorem State.shiftRight_sp : (s.shiftRight d m k).sp = s.sp := by simp [State.shiftRight]
@[simp] theorem State.shiftRight_mem : (s.shiftRight d m k).mem = s.mem := by simp [State.shiftRight]
@[simp] theorem State.shiftRight_imageEnd : (s.shiftRight d m k).imageEnd = s.imageEnd := by simp [State.shiftRight]
@[simp] theorem State.shiftRight_engineState : (s.shiftRight d m k).engineState = s.engineState := by
  simp [State.shiftRight]
@[simp] theorem State.shiftRight_stopReason : (s.shiftRight d m k).stopReason = s.stopReason := by
  simp [State.shiftRight]
@[simp] theorem State.shiftRight_cfg : (s.shiftRight d m k).cfg = s.cfg := by simp [State.shiftRight]
@[simp] theorem State.shiftRight_z : (s.shiftRight d m k).flags.z = zeroFlag (s.reg m >>> k) := by
  simp [State.shiftRight, Flags.withCZS]
@[simp] theorem State.shiftRight_s : (s.shiftRight d m k).flags.s = signFlag (s.reg m >>> k) := by
  simp [State.shiftRight, Flags.withCZS]
@[simp] theorem State.shiftRight_ov : (s.shiftRight d m k).flags.ov = s.flags.ov := by
  simp [State.shiftRight, Flags.withCZS]

@[simp] theorem State.shiftLeft_pc : (s.shiftLeft d m k).pc = s.pc := by simp [State.shiftLeft]
@[simp] theorem State.shiftLeft_sp : (s.shiftLeft d m k).sp = s.sp := by simp [State.shiftLeft]
@[simp] theorem State.shiftLeft_mem : (s.shiftLeft d m k).mem = s.mem := by simp [State.shiftLeft]
@[simp] theorem State.shiftLeft_imageEnd : (s.shiftLeft d m k).imageEnd = s.imageEnd := by simp [State.shiftLeft]
@[simp] theorem State.shiftLeft_engineState : (s.shiftLeft d m k).engineState = s.engineState := by
  simp [State.shiftLeft]
@[simp] theorem State.shiftLeft_stopReason : (s.shiftLeft d m k).stopReason = s.stopReason := by simp [State.shiftLeft]
@[simp] theorem State.shiftLeft_cfg : (s.shiftLeft d m k).cfg = s.cfg := by simp [State.shiftLeft]
@[simp] theorem State.shiftLeft_z : (s.shiftLeft d m k).flags.z = zeroFlag (s.reg m <<< k) := by simp [State.shiftLeft]
@[simp] theorem State.shiftLeft_s : (s.shiftLeft d m k).flags.s = signFlag (s.reg m <<< k) := by simp [State.shiftLeft]

end

section

variable (f : Flags)

@[simp] theorem Flags.withZS_c (r : Word) : (f.withZS r).c = f.c := rfl
@[simp] theorem Flags.withZS_ov (r : Word) : (f.withZS r).ov = f.ov := rfl
@[simp] theorem Flags.withCZS_ov (c : Bool) (r : Word) : (f.withCZS c r).ov = f.ov := rfl
@[simp] theorem Flags.withCmp_c (a b : Word) : (f.withCmp a b).c = f.c := rfl
@[simp] theorem Flags.withCmp_ov (a b : Word) : (f.withCmp a b).ov = f.ov := rfl

end

/-! ## General registers (R22) -/

/-- An instruction leaves the register file as it was, or writes the one register that R22's table gives it. -/
theorem exec_x_cases {i : Instr} {s t : State} (h : exec i s = .next t) :
    t.x = s.x ∨ ∃ d v, regWritten i = some d ∧ t.x = s.x.set d v := by
  cases i <;> rw [next_inj h]
  case movReg | movImm | ldr | add | sub | mul | and | orr | not | xor | ror | rol => exact .inr ⟨_, _, rfl, rfl⟩
  case shr => exact .inr ⟨_, _, rfl, State.shiftRight_x ..⟩
  case shl => exact .inr ⟨_, _, rfl, State.shiftLeft_x ..⟩
  case pop =>
    rw [State.pop_x]
    split
    · exact .inr ⟨_, _, rfl, rfl⟩
    · exact .inl rfl
  all_goals exact .inl (by simp)

/-- After a write of register `d`, every other register reads as before. -/
theorem State.reg_of_x_set {s t : State} {d e : Reg} {v : Word} (h : t.x = s.x.set d v) (hne : e ≠ d) :
    t.reg e = s.reg e := by
  rw [State.reg_congr (s.setReg d v) t h, State.reg_setReg, if_neg hne]

/-- A register that R22's table does not give the instruction reads as before. -/
theorem exec_reg_of_not_written {i : Instr} {s t : State} (h : exec i s = .next t) {e : Reg}
    (he : regWritten i ≠ some e) : t.reg e = s.reg e := by
  obtain hx | ⟨d, v, hd, hx⟩ := exec_x_cases h
  · exact State.reg_congr s t hx e
  · exact State.reg_of_x_set hx (fun hed => he (hed ▸ hd))

/-- Settles O27, by `exec_x_cases`; a POP from an empty stack leaves the register file as it was. -/
theorem registersWrittenByTable : Obligations.RegistersWrittenByTable := by
  intro i s t h
  refine ⟨fun e he => exec_reg_of_not_written h he, ?_⟩
  rintro d rfl hempty
  refine State.reg_congr s t ?_
  rw [next_inj h, State.pop_x, hempty]
  rfl

/-! ## Flags (R29, R31) -/

/-- An instruction outside R29's column C keeps C. -/
theorem exec_c {i : Instr} {s t : State} (h : exec i s = .next t) (hc : writesC i = false) :
    t.flags.c = s.flags.c := by
  cases i <;> rw [next_inj h]
  case add | sub | mul | shr | shl | ror | rol => cases hc
  all_goals simp [State.logic_eq]

/-- An instruction outside R29's column Ov keeps Ov. -/
theorem exec_ov {i : Instr} {s t : State} (h : exec i s = .next t) (hov : writesOv i = false) :
    t.flags.ov = s.flags.ov := by
  cases i <;> rw [next_inj h]
  case add | sub | mul | shl => cases hov
  all_goals simp [State.logic_eq]

/-- Z and S are as they were, or both come from one result, or both from CMP's comparison (R29, R108). -/
theorem exec_zs_cases {i : Instr} {s t : State} (h : exec i s = .next t) :
    (writesZS i = false ∧ t.flags.z = s.flags.z ∧ t.flags.s = s.flags.s) ∨
    (writesZS i = true ∧ ∃ r, t.flags.z = zeroFlag r ∧ t.flags.s = signFlag r) ∨
    (writesZS i = true ∧ ∃ a b : Word, t.flags.z = decide (a = b) ∧ t.flags.s = decide (a.toNat < b.toNat)) := by
  cases i <;> rw [next_inj h]
  case add | sub | mul | and | orr | not | xor | ror | rol => exact .inr (.inl ⟨rfl, _, rfl, rfl⟩)
  case shr => exact .inr (.inl ⟨rfl, _, State.shiftRight_z .., State.shiftRight_s ..⟩)
  case shl => exact .inr (.inl ⟨rfl, _, State.shiftLeft_z .., State.shiftLeft_s ..⟩)
  case cmp => exact .inr (.inr ⟨rfl, _, _, rfl, rfl⟩)
  all_goals exact .inl ⟨rfl, by simp, by simp⟩

/-- An instruction outside R29's columns Z and S keeps both. -/
theorem exec_zs {i : Instr} {s t : State} (h : exec i s = .next t) (hzs : writesZS i = false) :
    t.flags.z = s.flags.z ∧ t.flags.s = s.flags.s := by
  obtain ⟨-, hkept⟩ | ⟨hw, -⟩ | ⟨hw, -⟩ := exec_zs_cases h
  · exact hkept
  all_goals simp [hzs] at hw

/-- Settles O28, a column of R29's table at a time. -/
theorem flagsWrittenByTable : Obligations.FlagsWrittenByTable :=
  fun _ _ _ h => ⟨exec_c h, exec_ov h, exec_zs h⟩

/-- A result that is 0 has no sign bit. -/
theorem not_zeroFlag_and_signFlag (r : Word) : ¬ (zeroFlag r = true ∧ signFlag r = true) := by
  rintro ⟨hz, hs⟩
  obtain rfl : r = 0 := of_decide_eq_true hz
  exact absurd hs (by decide)

/-- No instruction sets Z and S together (R31): the one says that a result is 0 or a comparison equal, the other that
the result is negative or the comparison less. -/
theorem exec_not_z_and_s {i : Instr} {s t : State} (h : exec i s = .next t)
    (hs : ¬ (s.flags.z = true ∧ s.flags.s = true)) : ¬ (t.flags.z = true ∧ t.flags.s = true) := by
  obtain ⟨-, hz, hsgn⟩ | ⟨-, r, hz, hsgn⟩ | ⟨-, a, b, hz, hsgn⟩ := exec_zs_cases h <;> rw [hz, hsgn]
  · exact hs
  · exact not_zeroFlag_and_signFlag r
  · simp only [decide_eq_true_eq]
    rintro ⟨rfl, hlt⟩
    exact Nat.lt_irrefl _ hlt

/-! ## Stack pointer (R26, R27) -/

/-- An instruction other than PSH and POP keeps `sp`. -/
theorem exec_sp {i : Instr} {s t : State} (h : exec i s = .next t) (hpsh : ∀ n, i ≠ .psh n) (hpop : ∀ d, i ≠ .pop d) :
    t.sp = s.sp := by
  cases i <;> rw [next_inj h]
  case psh n => exact absurd rfl (hpsh n)
  case pop d => exact absurd rfl (hpop d)
  all_goals simp [State.arith_eq, State.logic_eq]

/-- Settles O29, by `State.push_sp`, `State.pop_sp` and `exec_sp`. -/
theorem stackPointerOnlyByPshPop : Obligations.StackPointerOnlyByPshPop := by
  intro i s t h
  refine ⟨?_, ?_, exec_sp h⟩
  · rintro n rfl
    rw [next_inj h]
    exact s.push_sp _
  · rintro d rfl
    rw [next_inj h]
    exact s.pop_sp _

/-- R27: `sp` is `STACK_START - 2k` and at or above the floor. -/
def SpInRange (c : Config) (sp : Word) : Prop :=
  c.floor ≤ (sp.toNat : Int) ∧ sp.toNat ≤ c.stackStart.toNat ∧ (c.stackStart.toNat - sp.toNat) % 2 = 0

/-- D1 as facts about numbers; the class map's bijectivity is left aside. -/
theorem stack_of_cfg_wf {c : Config} (h : c.wf = true) :
    c.stackSize % 2 = 0 ∧ c.stackSize ≤ c.stackStart.toNat ∧ c.stackStart.toNat ≤ 0xFFFE := by
  simp only [Config.wf, Bool.and_eq_true, decide_eq_true_eq] at h
  obtain ⟨⟨⟨⟨heven, -⟩, hle⟩, hmax⟩, -⟩ := h
  exact ⟨heven, hle, hmax⟩

/-- A push above the floor stays in the range: the floor has `STACK_START`'s parity, so `sp` is 2 above it or more. -/
theorem SpInRange.sub_two {c : Config} {sp : Word} (h : SpInRange c sp) (hwf : c.wf = true)
    (hroom : c.floor < (sp.toNat : Int)) : SpInRange c (sp - 2) := by
  obtain ⟨hsize, hle, -⟩ := stack_of_cfg_wf hwf
  obtain ⟨-, hhigh, heven⟩ := h
  simp only [Config.floor] at hroom
  have hsp : (sp - 2).toNat = sp.toNat - 2 := by bv_omega
  simp only [SpInRange, Config.floor, hsp]
  omega

/-- A pop below `STACK_START` stays in the range: by parity, `sp` is 2 below it or more. -/
theorem SpInRange.add_two {c : Config} {sp : Word} (h : SpInRange c sp) (hwf : c.wf = true)
    (hroom : sp.toNat < c.stackStart.toNat) : SpInRange c (sp + 2) := by
  obtain ⟨-, -, hmax⟩ := stack_of_cfg_wf hwf
  obtain ⟨hlow, -, heven⟩ := h
  have hsp : (sp + 2).toNat = sp.toNat + 2 := by bv_omega
  simp only [SpInRange, hsp]
  omega

/-- No instruction takes `sp` out of R27's range. -/
theorem exec_spInRange {i : Instr} {s t : State} (h : exec i s = .next t) (hwf : s.cfg.wf = true)
    (hs : SpInRange s.cfg s.sp) : SpInRange s.cfg t.sp := by
  by_cases hpsh : ∃ n, i = .psh n
  · obtain ⟨n, rfl⟩ := hpsh
    rw [next_inj h]
    obtain ⟨hroom, hpush⟩ | ⟨-, hpush⟩ := State.push_cases s (s.reg n) <;> rw [hpush]
    · exact hs.sub_two hwf hroom
    · exact hs
  by_cases hpop : ∃ d, i = .pop d
  · obtain ⟨d, rfl⟩ := hpop
    rw [next_inj h]
    obtain ⟨-, hroom, hpop⟩ | ⟨-, hpop⟩ := State.pop_cases s (popDest d) <;> rw [hpop]
    · exact hs.add_two hwf hroom
    · exact hs
  rw [exec_sp h (fun n hn => hpsh ⟨n, hn⟩) (fun d hd => hpop ⟨d, hd⟩)]
  exact hs

/-! ## Program counter (R25) -/

/-- Settles O30, by the split over the instructions outside the jump family. -/
theorem programCounterOnlyByJumps : Obligations.ProgramCounterOnlyByJumps := by
  intro i s t h hjump
  cases i <;> rw [next_inj h]
  case jmp | jeq | jlt | jgt => cases hjump
  all_goals simp [State.arith_eq, State.logic_eq]

/-! ## Memory, `IMAGE_END`, the parameters and the engine -/

/-- An instruction keeps memory canonical: the stores write whole words, and no other instruction writes. -/
theorem exec_mem_wf {i : Instr} {s t : State} (h : exec i s = .next t) (hm : Memory.wf s.mem = true) :
    Memory.wf t.mem = true := by
  cases i <;> rw [next_inj h]
  case strReg | strImm => exact State.wf_writeWord s hm _ _
  case psh => exact State.wf_push s hm _
  all_goals simpa [State.arith_eq, State.logic_eq] using hm

/-- No instruction writes `IMAGE_END` (R33). -/
theorem exec_imageEnd {i : Instr} {s t : State} (h : exec i s = .next t) : t.imageEnd = s.imageEnd := by
  cases i <;> rw [next_inj h]
  all_goals simp [State.arith_eq, State.logic_eq]

/-- No instruction writes a parameter (R35). -/
theorem exec_cfg {i : Instr} {s t : State} (h : exec i s = .next t) : t.cfg = s.cfg := by
  cases i <;> rw [next_inj h]
  all_goals simp [State.arith_eq, State.logic_eq]

/-- An instruction that is executed leaves the engine alone (R85). -/
theorem exec_engine_of_executing {i : Instr} {s t : State} (h : exec i s = .next t) (hi : entersExecuting i = true) :
    t.engineState = s.engineState ∧ t.stopReason = s.stopReason := by
  cases i <;> rw [next_inj h]
  case halt | reserved0 => cases hi
  all_goals simp [State.arith_eq, State.logic_eq]

/-- The two instructions that are not executed stop the engine, each with a reason (R84, R181). -/
theorem exec_engine_of_stopping {i : Instr} {s t : State} (h : exec i s = .next t) (hi : entersExecuting i = false) :
    t.engineState = .halted ∧ t.stopReason ≠ .none := by
  cases i
  case halt | reserved0 =>
    rw [next_inj h]
    exact ⟨rfl, by simp⟩
  all_goals cases hi

/-! ## Every step -/

/-- Settles O24, by `step_cases`: a stop at the end of the image keeps both, and so does every instruction. -/
theorem stepKeepsImageEndAndParameters : Obligations.StepKeepsImageEndAndParameters := by
  intro s t h
  obtain ⟨-, ⟨-, rfl⟩ | ⟨-, u, hu, rfl⟩⟩ := step_cases h
  · exact ⟨rfl, rfl⟩
  · simp [exec_imageEnd hu, exec_cfg hu]

/-- R27's range of `sp`, as the invariant's three clauses say it. -/
theorem State.Inv.spInRange {s : State} (h : s.Inv) : SpInRange s.cfg s.sp := ⟨h.spLow, h.spHigh, h.spEven⟩

/-- A stop for a reason keeps the invariant (R181). -/
theorem State.Inv.stop {s : State} (h : s.Inv) {r : StopReason} (hr : r ≠ .none) : (s.stop r).Inv where
  mem := h.mem
  cfg := h.cfg
  spLow := h.spLow
  spHigh := h.spHigh
  spEven := h.spEven
  flags := h.flags
  imageEnd := h.imageEnd
  engine := .inr rfl
  reason := by simp [hr]

/-- When an instruction that began with reason NONE is over, the engine is in FETCHING with NONE or in HALTED with
another reason (R81, R85, R181). -/
theorem exec_finished_engine {i : Instr} {s u : State} (h : exec i (s.entered i) = .next u)
    (hs : s.stopReason = .none) :
    (u.finished.engineState = .fetching ∨ u.finished.engineState = .halted) ∧
      (u.finished.stopReason = .none ↔ u.finished.engineState = .fetching) := by
  cases hi : entersExecuting i with
  | true =>
    obtain ⟨hengine, hreason⟩ := exec_engine_of_executing h hi
    simp [hengine, hreason, hi, hs]
  | false =>
    obtain ⟨hengine, hreason⟩ := exec_engine_of_stopping h hi
    simp [hengine, hreason]

/-- An instruction run from FETCHING and finished keeps the invariant. -/
theorem State.Inv.exec_finished {s u : State} {i : Instr} (h : s.Inv) (hf : s.engineState = .fetching)
    (hu : exec i (s.entered i) = .next u) : u.finished.Inv := by
  have hcfg : u.cfg = s.cfg := by simpa using exec_cfg hu
  have himage : u.imageEnd = s.imageEnd := by simpa using exec_imageEnd hu
  obtain ⟨hlow, hhigh, heven⟩ : SpInRange s.cfg u.sp :=
    exec_spInRange (s := s.entered i) hu h.cfg h.spInRange
  obtain ⟨hengine, hreason⟩ := exec_finished_engine hu (h.reason.2 hf)
  exact {
    mem := by simpa using exec_mem_wf hu h.mem
    cfg := by simpa [hcfg] using h.cfg
    spLow := by simpa [hcfg] using hlow
    spHigh := by simpa [hcfg] using hhigh
    spEven := by simpa [hcfg] using heven
    flags := by simpa using exec_not_z_and_s hu h.flags
    imageEnd := by simpa [himage] using h.imageEnd
    engine := hengine
    reason := hreason }

/-- Settles O20, by `step_cases`: a step is a stop at the end of the image or an instruction run and finished. -/
theorem stepKeepsInvariant : Obligations.StepKeepsInvariant := by
  intro s t hs h
  obtain ⟨hf, ⟨-, rfl⟩ | ⟨-, u, hu, rfl⟩⟩ := step_cases h
  · exact hs.stop (by decide)
  · exact hs.exec_finished hf hu

/-! ## C and Ov are never read (R30) -/

section

variable (s : State) (c ov : Bool)

/-- Where a jump leads is no matter of C and Ov, once its condition is known. -/
theorem State.withCOv_jumpIf (p : Bool) (o : Word) : (s.withCOv c ov).jumpIf p o = (s.jumpIf p o).withCOv c ov := by
  cases p <;> rfl

/-- Whether a push takes place, and what it does, is no matter of C and Ov. -/
theorem State.withCOv_push (v : Word) : (s.withCOv c ov).push v = (s.push v).withCOv c ov := by
  rw [State.push, State.push, apply_ite (State.withCOv · c ov)]
  rfl

/-- Whether a pop takes place, and what it does, is no matter of C and Ov. -/
theorem State.withCOv_pop (d : Reg) : (s.withCOv c ov).pop d = (s.pop d).withCOv c ov := by
  rw [State.pop, State.pop, apply_ite (State.withCOv · c ov)]
  rfl

/-- SHR draws its C or takes it from the operand, and passes Ov on (R160). -/
theorem State.withCOv_shiftRight (d m : Reg) (k : Nat) :
    (s.withCOv c ov).shiftRight d m k = (s.shiftRight d m k).withCOv (s.shiftRight d m k).flags.c ov := by
  cases k with
  | zero => simp only [State.shiftRight_zero]; rfl
  | succ k => simp only [State.shiftRight_succ]; rfl

/-- SHL draws its C and Ov or takes them from the operand (R161). -/
theorem State.withCOv_shiftLeft (d m : Reg) (k : Nat) : (s.withCOv c ov).shiftLeft d m k = s.shiftLeft d m k := by
  by_cases hk : 16 < k
  · simp only [State.shiftLeft_gt _ d m k hk]; rfl
  · simp only [State.shiftLeft_le _ d m k (Nat.le_of_not_lt hk)]; rfl

end

/-- The run with other values of C and Ov ends where the first run ends, but for the flags of the two that the
instruction does not write; NOP is apart, since its dump shows them. -/
theorem exec_withCOv {i : Instr} {s t : State} (c ov : Bool) (h : exec i s = .next t) (hnop : i ≠ .nop) :
    exec i (s.withCOv c ov) =
      .next (t.withCOv (if writesC i then t.flags.c else c) (if writesOv i then t.flags.ov else ov)) := by
  cases i <;> rw [next_inj h]
  case nop => exact absurd rfl hnop
  case jmp | jeq | jlt | jgt => exact congrArg Host.Outcome.next (State.withCOv_jumpIf ..)
  case psh => exact congrArg Host.Outcome.next (State.withCOv_push ..)
  case pop => exact congrArg Host.Outcome.next (State.withCOv_pop ..)
  case shr => exact congrArg Host.Outcome.next (State.withCOv_shiftRight ..)
  case shl => exact congrArg Host.Outcome.next (State.withCOv_shiftLeft ..)
  all_goals rfl

/-- NOP with other values of C and Ov: the same but for the dump. -/
theorem execNop_withCOv (s : State) (c ov : Bool) :
    exec .nop (s.withCOv c ov) =
      .next ((s.withCOv c ov).emitIf s.cfg.nopDump (.dump (s.withCOv c ov).snapshot)) := rfl

/-- Settles O33, by `exec_withCOv`, and for NOP by what an emitted event leaves alone. -/
theorem noInstructionReadsCOrOv : Obligations.NoInstructionReadsCOrOv := by
  intro i s t c ov h
  by_cases hnop : i = .nop
  · subst hnop
    rw [next_inj h]
    refine ⟨_, execNop_withCOv s c ov, ?_⟩
    simp [State.withCOv, keepsEngine, writesC, writesOv]
  · exact ⟨_, exec_withCOv c ov h hnop, rfl, rfl, rfl, rfl, rfl, rfl, ⟨rfl, rfl, rfl, rfl, rfl⟩, rfl, fun _ => rfl,
      rfl, rfl⟩

/-! ## The reset that begins a run (R200-R202) -/

/-- With a well-formed configuration and a load, and outside a run, `run()` is the reset. -/
theorem hostRun_eq_runReset {s : State} (hwf : s.cfg.wf = true) (hload : 2 ≤ s.imageEnd) (hrun : s.inRun = false) :
    hostRun s = .next s.runReset := by
  simp [hostRun, State.loaded, hwf, hload, hrun]

/-- After the reset every general register is 0. -/
theorem State.runReset_reg (s : State) (e : Reg) : s.runReset.reg e = 0 := by
  simp [State.reg]

/-- Settles O1, a field of `State.runReset` at a time. -/
theorem runResetsAllButMemory : Obligations.RunResetsAllButMemory := by
  intro s hwf hload hrun
  have hbegun : s.runReset.inRun = true := s.runReset.inRun_iff.2 ⟨rfl, by simp⟩
  exact ⟨s.runReset, hostRun_eq_runReset hwf hload hrun, hbegun, s.runReset_reg, rfl, rfl, rfl, rfl, rfl, fun _ => rfl,
    rfl, rfl⟩

end Sys2Proof.Machine
end

section
/-! PROOF of O8, O9, O25, O31, O7 (family 20_memory.md). The byte store as words (spec/20_memory.md R42-R46), its
canonical form (log entry 2), and the instructions that write it (R47, R55, R89). -/

namespace Sys2Proof.Machine

/-! ## A word and its two bytes (R42, R43) -/

/-- The low byte is the word modulo 256 (R43). -/
theorem toNat_lowByte (v : Word) : (lowByte v).toNat = v.toNat % 256 := by
  simp [lowByte]

/-- The high byte is the word divided by 256 (R43). -/
theorem toNat_highByte (v : Word) : (highByte v).toNat = v.toNat / 256 := by
  simp only [highByte, BitVec.extractLsb'_toNat, Nat.shiftRight_eq_div_pow]
  omega

/-- The word of two bytes weighs the second by 256 (R42). -/
theorem toNat_wordOfBytes (lo hi : Byte) : (wordOfBytes lo hi).toNat = lo.toNat + 256 * hi.toNat := by
  rw [wordOfBytes, BitVec.toNat_append, ← Nat.shiftLeft_add_eq_or_of_lt lo.isLt, Nat.shiftLeft_eq]
  omega

/-- Settles O7, by `toNat_wordOfBytes`. -/
theorem wordReadIsLittleEndian : Obligations.WordReadIsLittleEndian :=
  fun _ _ => toNat_wordOfBytes _ _

/-! ## The two bytes of a word write (R43, R44, R46) -/

section

variable {s : State} (h : Memory.wf s.mem = true) (a v : Word)

include h

/-- The byte at a word write's address is the low one. -/
theorem State.readByte_writeWord_low : (s.writeWord a v).readByte a = lowByte v := by
  rw [State.readByte_writeWord s h, if_neg (Word.ne_succ a), if_pos rfl]

/-- The byte after it is the high one. -/
theorem State.readByte_writeWord_high : (s.writeWord a v).readByte (a + 1) = highByte v := by
  rw [State.readByte_writeWord s h, if_pos rfl]

/-- A word write keeps every byte but its two. -/
theorem State.keepsMemoryBut_writeWord : keepsMemoryBut a s (s.writeWord a v) := by
  intro b hlow hhigh
  rw [State.readByte_writeWord s h, if_neg hhigh, if_neg hlow]

end

/-- Settles O8, a byte at a time. -/
theorem wordWriteChangesTwoBytes : Obligations.WordWriteChangesTwoBytes := by
  intro s a v h
  refine ⟨?_, ?_, State.keepsMemoryBut_writeWord h a v⟩
  · rw [State.readByte_writeWord_low h, toNat_lowByte]
  · rw [State.readByte_writeWord_high h, toNat_highByte]

/-! ## The canonical form of a memory content (log entry 2) -/

/-- Writing the bytes of a content one after another gives a canonical memory of its first `n` bytes. -/
theorem Memory.exists_wf_read (f : Nat → Byte) (n : Nat) (hn : n ≤ 65536) :
    ∃ m, Memory.wf m = true ∧ ∀ a < n, Memory.read m a = f a := by
  induction n with
  | zero => exact ⟨[], Memory.wf_nil, fun a ha => absurd ha (Nat.not_lt_zero a)⟩
  | succ n ih =>
    obtain ⟨m, hm, hread⟩ := ih (by omega)
    refine ⟨Memory.write m n (f n), Memory.wf_write m hm n hn (f n), fun a ha => ?_⟩
    rw [Memory.read_write m hm]
    split
    · rw [‹a = n›]
    · exact hread a (by omega)

/-- A canonical memory's first address is no higher than any address that does not read as unlisted. -/
theorem Memory.head_le_of_read_ne {k a : Nat} {v : Byte} {m : Memory} (h : Memory.wf ((k, v) :: m) = true)
    (ha : Memory.read ((k, v) :: m) a ≠ Memory.unlisted) : k ≤ a := by
  obtain ⟨-, habove, -, -⟩ := Memory.wf_tail h
  refine Nat.le_of_not_lt fun hlt => ha (Memory.read_of_above _ a ?_)
  exact List.forall_mem_cons.2 ⟨hlt, fun c hc => Nat.lt_trans hlt (habove c hc)⟩

/-- A canonical memory does not read as unlisted at its first address. -/
theorem Memory.read_head_ne {k : Nat} {v : Byte} {m : Memory} (h : Memory.wf ((k, v) :: m) = true) :
    Memory.read ((k, v) :: m) k ≠ Memory.unlisted := by
  obtain ⟨-, -, -, hv⟩ := Memory.wf_tail h
  rwa [Memory.read_cell, if_pos rfl]

/-- The tail of a canonical memory reads as unlisted at the first address and as the whole elsewhere. -/
theorem Memory.read_tail {k : Nat} {v : Byte} {m : Memory} (h : Memory.wf ((k, v) :: m) = true) (a : Nat) :
    Memory.read m a = if k = a then Memory.unlisted else Memory.read ((k, v) :: m) a := by
  obtain ⟨-, habove, -, -⟩ := Memory.wf_tail h
  split
  · exact Memory.read_of_above m a (‹k = a› ▸ habove)
  · rw [Memory.read_cell, if_neg ‹_›]

/-- Canonical memories that read alike are equal: the first cell is the lowest address that does not read as unlisted,
and the tails read alike again. -/
theorem Memory.eq_of_read_eq {m m' : Memory} (h : Memory.wf m = true) (h' : Memory.wf m' = true)
    (hread : ∀ a < 65536, Memory.read m a = Memory.read m' a) : m = m' := by
  induction m generalizing m' with
  | nil =>
    cases m' with
    | nil => rfl
    | cons c' rest' =>
      obtain ⟨-, -, hk', -⟩ := Memory.wf_tail h'
      exact absurd (hread _ hk').symm (Memory.read_head_ne h')
  | cons c rest ih =>
    obtain ⟨k, v⟩ := c
    obtain ⟨hrest, -, hk, -⟩ := Memory.wf_tail h
    have hne := Memory.read_head_ne h
    cases m' with
    | nil => exact absurd (hread k hk) hne
    | cons c' rest' =>
      obtain ⟨k', v'⟩ := c'
      obtain ⟨hrest', -, hk', -⟩ := Memory.wf_tail h'
      have hne' := Memory.read_head_ne h'
      obtain rfl : k = k' :=
        Nat.le_antisymm (Memory.head_le_of_read_ne h (hread k' hk' ▸ hne'))
          (Memory.head_le_of_read_ne h' (hread k hk ▸ hne))
      obtain rfl : v = v' := by simpa using hread k hk
      refine congrArg _ (ih hrest hrest' fun a ha => ?_)
      rw [Memory.read_tail h, Memory.read_tail h', hread a ha]

/-- Settles O9, by `Memory.exists_wf_read` and `Memory.eq_of_read_eq`. -/
theorem everyMemoryContentHasOneForm : Obligations.EveryMemoryContentHasOneForm := by
  intro f
  obtain ⟨m, hm, hread⟩ := Memory.exists_wf_read (fun a => f (BitVec.ofNat 16 a)) 65536 (Nat.le_refl _)
  have hf (a : Word) : Memory.read m a.toNat = f a := by
    rw [hread a.toNat a.isLt, BitVec.ofNat_toNat, BitVec.setWidth_eq]
  refine ⟨m, ⟨hm, hf⟩, ?_⟩
  rintro m' ⟨hm', hf'⟩
  refine Memory.eq_of_read_eq hm' hm fun a ha => ?_
  have ha' : (BitVec.ofNat 16 a).toNat = a := Nat.mod_eq_of_lt ha
  rw [← ha', hf', hf]

/-! ## What an instruction does to memory (R47, R89) -/

/-- An instruction that stores writes one word at its address; any other keeps memory as it was. -/
theorem exec_mem_cases {i : Instr} {s t : State} (h : exec i s = .next t) :
    (storeAddr s i = none ∧ t.mem = s.mem) ∨
    ∃ a v, storeAddr s i = some a ∧ t.mem = (s.writeWord a v).mem := by
  cases i <;> rw [next_inj h]
  case strReg | strImm => exact .inr ⟨_, _, rfl, rfl⟩
  case psh =>
    rw [State.push_mem, storeAddr]
    split
    · exact .inr ⟨_, _, rfl, rfl⟩
    · exact .inl ⟨rfl, rfl⟩
  all_goals exact .inl ⟨rfl, by simp [State.arith_eq, State.logic_eq]⟩

/-- Settles O31, by `exec_mem_cases` and what a word write keeps. -/
theorem memoryOnlyByStores : Obligations.MemoryOnlyByStores := by
  intro i s t hm h
  obtain ⟨hnone, hmem⟩ | ⟨a, v, hsome, hmem⟩ := exec_mem_cases h
  · exact ⟨by simp [hnone], fun _ => State.readByte_congr s t hmem⟩
  · refine ⟨fun a' ha' b hlow hhigh => ?_, by simp [hsome]⟩
    obtain rfl : a = a' := Option.some.inj (hsome.symm.trans ha')
    rw [State.readByte_congr (s.writeWord a v) t hmem]
    exact State.keepsMemoryBut_writeWord hm a v b hlow hhigh

/-! ## A store into the next word (R55, R213) -/

/-- In FETCHING below `IMAGE_END`, the step is the fetched instruction's meaning, finished (R83-R87). -/
theorem step_of_exec {s u : State} (hf : s.engineState = .fetching) (hpc : s.pc.toNat < s.imageEnd)
    (hu : exec s.fetchedInstr (s.entered s.fetchedInstr) = .next u) : step s = .next u.finished := by
  have hend : s.atEndOfImage = false := decide_eq_false (Nat.not_le.2 hpc)
  simp [step, hf, hend, hu, finishedOutcome]

/-- Settles O25: the stored word stands at the advanced `pc`, where the next fetch reads it back. -/
theorem storeSeenByNextFetch : Obligations.StoreSeenByNextFetch := by
  intro s m n hm hf hpc hi haddr
  have hstore : exec s.fetchedInstr (s.entered s.fetchedInstr) =
      .next ((s.entered s.fetchedInstr).writeWord (s.reg m) (s.reg n)) := by rw [hi]; rfl
  refine ⟨_, step_of_exec hf hpc hstore, by simp, ?_, by simp [hi, entersExecuting]⟩
  rw [State.fetchedWord, State.finished_pc, State.readWord_congr _ _ (State.finished_mem _), haddr]
  exact State.readWord_writeWord (s.entered s.fetchedInstr) hm (s.pc + 2) (s.reg n)

end Sys2Proof.Machine
end

section
/-! PROOF of O10, O11, O12, O13, O14, O15, O16, O39, O40 (family 30_encoding.md). What a word decodes to, read from the
fields of its format (spec/30_encoding.md R60-R72), and the two instructions that stop the engine (R70, R71, R84). -/

namespace Sys2Proof

/-! ## Parts of a word -/

section

variable {m n : Nat}

/-- A word is a concatenation exactly when its two parts are the concatenated ones. -/
theorem eq_append_iff {w : BitVec (m + n)} {a : BitVec m} {b : BitVec n} :
    w = a ++ b ↔ w.extractLsb' n m = a ∧ w.extractLsb' 0 n = b := by
  constructor
  · rintro rfl
    exact ⟨BitVec.extractLsb'_append_eq_left, BitVec.extractLsb'_append_eq_right⟩
  · rintro ⟨rfl, rfl⟩
    exact BitVec.extractLsb'_append_extractLsb'.symm

/-- A part of a part is a part; the library has this for parts that begin at bit 0. -/
theorem extractLsb'_extractLsb' {w : BitVec n} {i j len len' : Nat} (h : i + len ≤ len') :
    (w.extractLsb' j len').extractLsb' i len = w.extractLsb' (j + i) len := by
  apply BitVec.eq_of_getLsbD_eq
  intro k hk
  have hk' : i + k < len' := by omega
  simp [hk, hk', Nat.add_assoc]

/-- A part whose bits the mask keeps. -/
theorem extractLsb'_and_of_kept {w mask : BitVec n} {i len : Nat} (h : mask.extractLsb' i len = BitVec.allOnes len) :
    (w &&& mask).extractLsb' i len = w.extractLsb' i len := by
  rw [BitVec.extractLsb'_and, h, BitVec.and_allOnes]

/-- A part whose bits the mask clears. -/
theorem extractLsb'_and_of_cleared {w mask : BitVec n} {i len : Nat} (h : mask.extractLsb' i len = 0) :
    (w &&& mask).extractLsb' i len = 0 := by
  rw [BitVec.extractLsb'_and, h, BitVec.ofNat_eq_ofNat, BitVec.and_zero]

/-- A part, and the number that a register field reads from it (R65). -/
theorem eq_ofFin_iff {x : BitVec n} {i : Fin (2 ^ n)} : x = BitVec.ofFin i ↔ x.toFin = i := by
  constructor
  · rintro rfl
    rfl
  · rintro rfl
    rfl

end

section

variable {w : Word}

/-- `w[11]` as a part of one bit. -/
theorem extract_bit11_eq_iff {x : BitVec 1} : w.extractLsb' 11 1 = x ↔ fieldBit11 w = x.getLsbD 0 := by
  rw [fieldBit11, BitVec.getLsbD_eq_extractLsb']
  generalize w.extractLsb' 11 1 = y
  revert x y
  decide

/-- The class and `w[11]` together, as the part of five bits that heads a format (R62). -/
theorem extract_head_eq_iff {head : BitVec 5} :
    w.extractLsb' 11 5 = head ↔ fieldClass w = head.extractLsb' 1 4 ∧ fieldBit11 w = head.getLsbD 0 := by
  have hsplit : head = head.extractLsb' 1 4 ++ BitVec.ofBool (head.getLsbD 0) := by
    revert head
    decide
  rw [hsplit, eq_append_iff (m := 4) (n := 1), extractLsb'_extractLsb' (by decide), extractLsb'_extractLsb' (by decide),
    extract_bit11_eq_iff, ← fieldClass, ← hsplit]
  simp

/-! ## Words that match a row of spec/opcode_table.json -/

/-- A row whose mask is the class. -/
theorem and_F000_eq_iff {c : BitVec 4} : w &&& 0xF000 = c ++ (0 : BitVec 12) ↔ fieldClass w = c := by
  rw [Laws.FixedBits.and_class, BitVec.append_left_inj]

/-- A row whose mask is the class and `w[11]`. -/
theorem and_F800_eq_iff {head : BitVec 5} : w &&& 0xF800 = head ++ (0 : BitVec 11) ↔
    fieldClass w = head.extractLsb' 1 4 ∧ fieldBit11 w = head.getLsbD 0 := by
  rw [eq_append_iff (m := 5) (n := 11), extractLsb'_and_of_kept (by decide), extractLsb'_and_of_cleared (by decide),
    extract_head_eq_iff, and_iff_left rfl]

/-- A row whose mask is the class, `w[11]` and the selector. -/
theorem and_F803_eq_iff {head : BitVec 5} {sel : BitVec 2} : w &&& 0xF803 = head ++ (0 : BitVec 9) ++ sel ↔
    fieldClass w = head.extractLsb' 1 4 ∧ fieldBit11 w = head.getLsbD 0 ∧ fieldSel w = sel := by
  simp (disch := decide) only [eq_append_iff (m := 14) (n := 2), eq_append_iff (m := 5) (n := 9),
    extractLsb'_extractLsb', extractLsb'_and_of_kept, extractLsb'_and_of_cleared, Nat.reduceAdd, extract_head_eq_iff]
  simp [fieldSel, and_assoc]

/-- The all-zero word, by its fields. -/
theorem eq_zero_iff : w = 0 ↔ fieldClass w = 0 ∧ fieldBit11 w = false ∧ fieldImm9 w = 0 ∧ fieldSel w = 0 := by
  have hzero : (0 : Word) = (0 : BitVec 5) ++ (0 : BitVec 9) ++ (0 : BitVec 2) := by decide
  simp (disch := decide) only [hzero, eq_append_iff (m := 14) (n := 2), eq_append_iff (m := 5) (n := 9),
    extractLsb'_extractLsb', Nat.reduceAdd, extract_head_eq_iff]
  simp [fieldImm9, fieldSel, and_assoc]

end

/-! ## Words that carry an encoding in their named bits, one lemma per format (R62) -/

section

variable {w : Word} {cm : ClassMap} {c : BitVec 4} {d m n : Reg} {k : BitVec 5}

/-- Format J. -/
theorem eq_encodeJ_iff {sel : BitVec 2} {imm9 : BitVec 9} : w = encodeJ sel imm9 ↔
    fieldClass w = 0 ∧ fieldBit11 w = true ∧ fieldImm9 w = imm9 ∧ fieldSel w = sel := by
  simp (disch := decide) only [encodeJ, eq_append_iff (m := 14) (n := 2), eq_append_iff (m := 5) (n := 9),
    extractLsb'_extractLsb', Nat.reduceAdd, extract_head_eq_iff]
  simp [fieldSel, fieldImm9, and_assoc]

/-! The formats of class 0000, and of MOV and STR, whose `w[11]` is fixed. -/

theorem named_psh_iff : w &&& namedBits (.psh n) = encode cm (.psh n) ↔
    fieldClass w = 0 ∧ fieldBit11 w = false ∧ fieldN w = n ∧ fieldSel w = 1 := by
  have hhead : (0 : BitVec 11) = (0 : BitVec 5) ++ (0 : BitVec 6) := by decide
  simp (disch := decide) only [namedBits, encode, hhead, eq_append_iff (m := 14) (n := 2),
    eq_append_iff (m := 11) (n := 3), eq_append_iff (m := 5) (n := 6), extractLsb'_extractLsb',
    extractLsb'_and_of_kept, extractLsb'_and_of_cleared, Nat.reduceAdd, extract_head_eq_iff]
  simp [fieldSel, fieldN, eq_ofFin_iff (n := 3), and_assoc]

theorem named_pop_iff {d : PopReg} : w &&& namedBits (.pop d) = encode cm (.pop d) ↔
    fieldClass w = 0 ∧ fieldBit11 w = false ∧ fieldPopD w = d ∧ fieldSel w = 2 := by
  have hhead : (0 : BitVec 6) = (0 : BitVec 5) ++ (0 : BitVec 1) := by decide
  have htail : (2 : BitVec 8) = (0 : BitVec 6) ++ (2 : BitVec 2) := by decide
  simp (disch := decide) only [namedBits, encode, hhead, htail, eq_append_iff (m := 8) (n := 8),
    eq_append_iff (m := 6) (n := 2), eq_append_iff (m := 5) (n := 1), extractLsb'_extractLsb',
    extractLsb'_and_of_kept, extractLsb'_and_of_cleared, Nat.reduceAdd, extract_head_eq_iff]
  simp [fieldSel, fieldPopD, eq_ofFin_iff (n := 2), and_assoc]

theorem named_cmp_iff : w &&& namedBits (.cmp m n) = encode cm (.cmp m n) ↔
    fieldClass w = 0 ∧ fieldBit11 w = false ∧ fieldM w = m ∧ fieldN w = n ∧ fieldSel w = 3 := by
  have hhead : (0 : BitVec 8) = (0 : BitVec 5) ++ (0 : BitVec 3) := by decide
  simp (disch := decide) only [namedBits, encode, hhead, eq_append_iff (m := 14) (n := 2),
    eq_append_iff (m := 11) (n := 3), eq_append_iff (m := 8) (n := 3), eq_append_iff (m := 5) (n := 3),
    extractLsb'_extractLsb', extractLsb'_and_of_kept, extractLsb'_and_of_cleared, Nat.reduceAdd, extract_head_eq_iff]
  simp [fieldSel, fieldM, fieldN, eq_ofFin_iff (n := 3), and_assoc]

theorem named_reserved0_iff {bits : BitVec 9} : w &&& namedBits (.reserved0 bits) = encode cm (.reserved0 bits) ↔
    fieldClass w = 0 ∧ fieldBit11 w = false ∧ fieldImm9 w = bits ∧ fieldSel w = 0 := by
  simp (disch := decide) only [namedBits, encode, eq_append_iff (m := 14) (n := 2), eq_append_iff (m := 5) (n := 9),
    extractLsb'_extractLsb', extractLsb'_and_of_kept, Nat.reduceAdd, extract_head_eq_iff]
  simp [fieldSel, fieldImm9, and_assoc]

theorem named_movReg_iff : w &&& namedBits (.movReg d m) = encode cm (.movReg d m) ↔
    fieldClass w = 1 ∧ fieldBit11 w = false ∧ fieldD w = d ∧ fieldM w = m := by
  simp (disch := decide) only [namedBits, encode, encodeSH, eq_append_iff (m := 11) (n := 5),
    eq_append_iff (m := 8) (n := 3), eq_append_iff (m := 5) (n := 3), eq_append_iff (m := 4) (n := 1),
    extractLsb'_extractLsb', extractLsb'_and_of_kept, extractLsb'_and_of_cleared, Nat.reduceAdd, extract_bit11_eq_iff]
  simp [fieldClass, fieldD, fieldM, eq_ofFin_iff (n := 3), and_assoc]

theorem named_movImm_iff {imm8 : BitVec 8} : w &&& namedBits (.movImm d imm8) = encode cm (.movImm d imm8) ↔
    fieldClass w = 1 ∧ fieldBit11 w = true ∧ fieldD w = d ∧ fieldMovImm w = imm8 := by
  simp (disch := decide) only [namedBits, encode, eq_append_iff (m := 8) (n := 8), eq_append_iff (m := 5) (n := 3),
    extractLsb'_extractLsb', extractLsb'_and_of_kept, Nat.reduceAdd, extract_head_eq_iff]
  simp [fieldD, fieldMovImm, eq_ofFin_iff (n := 3), and_assoc]

theorem named_strReg_iff : w &&& namedBits (.strReg m n) = encode cm (.strReg m n) ↔
    fieldClass w = 2 ∧ fieldBit11 w = false ∧ fieldM w = m ∧ fieldN w = n := by
  simp (disch := decide) only [namedBits, encode, eq_append_iff (m := 14) (n := 2), eq_append_iff (m := 11) (n := 3),
    eq_append_iff (m := 8) (n := 3), eq_append_iff (m := 5) (n := 3), extractLsb'_extractLsb',
    extractLsb'_and_of_kept, extractLsb'_and_of_cleared, Nat.reduceAdd, extract_head_eq_iff]
  simp [fieldM, fieldN, eq_ofFin_iff (n := 3), and_assoc]

/-- STR's immediate stands in two parts of the word (R63). -/
theorem fieldStrImm_eq_iff {imm8 : BitVec 8} : fieldStrImm w = imm8 ↔
    w.extractLsb' 8 3 = imm8.extractLsb' 5 3 ∧ w.extractLsb' 0 5 = imm8.extractLsb' 0 5 := by
  rw [eq_comm, fieldStrImm, eq_append_iff (m := 3) (n := 5), eq_comm (b := w.extractLsb' 8 3),
    eq_comm (b := w.extractLsb' 0 5)]

theorem named_strImm_iff {imm8 : BitVec 8} : w &&& namedBits (.strImm m imm8) = encode cm (.strImm m imm8) ↔
    fieldClass w = 2 ∧ fieldBit11 w = true ∧ fieldM w = m ∧ fieldStrImm w = imm8 := by
  simp (disch := decide) only [namedBits, encode, eq_append_iff (m := 11) (n := 5), eq_append_iff (m := 8) (n := 3),
    eq_append_iff (m := 5) (n := 3), extractLsb'_extractLsb', extractLsb'_and_of_kept, Nat.reduceAdd,
    extract_head_eq_iff]
  simp [fieldM, fieldStrImm_eq_iff, eq_ofFin_iff (n := 3), and_assoc, and_left_comm]

/-- Format A3. -/
theorem and_eq_encodeA3_iff : w &&& 0xF7FC = encodeA3 c d m n ↔
    fieldClass w = c ∧ fieldD w = d ∧ fieldM w = m ∧ fieldN w = n := by
  simp (disch := decide) only [encodeA3, eq_append_iff (m := 14) (n := 2), eq_append_iff (m := 11) (n := 3),
    eq_append_iff (m := 8) (n := 3), eq_append_iff (m := 5) (n := 3), eq_append_iff (m := 4) (n := 1),
    extractLsb'_extractLsb', extractLsb'_and_of_kept, extractLsb'_and_of_cleared]
  simp [fieldClass, fieldD, fieldM, fieldN, eq_ofFin_iff (n := 3), and_assoc]

/-- Format SH. -/
theorem and_eq_encodeSH_iff : w &&& 0xF7FF = encodeSH c d m k ↔
    fieldClass w = c ∧ fieldD w = d ∧ fieldM w = m ∧ fieldK w = k := by
  simp (disch := decide) only [encodeSH, eq_append_iff (m := 11) (n := 5),
    eq_append_iff (m := 8) (n := 3), eq_append_iff (m := 5) (n := 3), eq_append_iff (m := 4) (n := 1),
    extractLsb'_extractLsb', extractLsb'_and_of_kept, extractLsb'_and_of_cleared]
  simp [fieldClass, fieldD, fieldM, fieldK, eq_ofFin_iff (n := 3), and_assoc]

/-- Formats A2 and L: format SH with no count. -/
theorem and_eq_encodeSH_zero_iff : w &&& 0xF7E0 = encodeSH c d m 0 ↔
    fieldClass w = c ∧ fieldD w = d ∧ fieldM w = m := by
  simp (disch := decide) only [encodeSH, eq_append_iff (m := 11) (n := 5),
    eq_append_iff (m := 8) (n := 3), eq_append_iff (m := 5) (n := 3), eq_append_iff (m := 4) (n := 1),
    extractLsb'_extractLsb', extractLsb'_and_of_kept, extractLsb'_and_of_cleared]
  simp [fieldClass, fieldD, fieldM, eq_ofFin_iff (n := 3), and_assoc]

end

/-! ## CLASS_MAP -/

section

variable {cm : ClassMap} {c : BitVec 4} {op : AluOp}

/-- The list of the map's instructions lists them all. -/
theorem AluOp.mem_all (op : AluOp) : op ∈ AluOp.all := by
  cases op <;> decide

/-- A well-formed class map holds every instruction, none twice (D2). -/
theorem ClassMap.wf_iff : cm.wf = true ↔ cm.toList.Nodup ∧ ∀ op, op ∈ cm.toList := by
  simp [ClassMap.wf, AluOp.mem_all]

/-- The entry of a class, 4 places before it. -/
theorem ClassMap.opAt_eq_some_iff_getElem? :
    cm.opAt c = some op ↔ 4 ≤ c.toNat ∧ cm.toList[c.toNat - 4]? = some op := by
  rw [ClassMap.opAt]
  split
  · simp only [reduceCtorEq, false_iff]
    omega
  · simp only [iff_and_self]
    omega

/-- The class of an instruction that the map holds is 4 places after its entry. -/
theorem ClassMap.toNat_classOf (h : op ∈ cm.toList) : (cm.classOf op).toNat = 4 + cm.toList.idxOf op := by
  have hlt : cm.toList.idxOf op < 11 := by simpa using List.idxOf_lt_length_of_mem h
  simp only [ClassMap.classOf, BitVec.toNat_ofNat]
  omega

/-- Under a bijection, an instruction's class is the one class that holds it. -/
theorem ClassMap.opAt_eq_some_iff (h : cm.wf = true) : cm.opAt c = some op ↔ c = cm.classOf op := by
  obtain ⟨hnodup, hall⟩ := ClassMap.wf_iff.1 h
  rw [ClassMap.opAt_eq_some_iff_getElem?, ← BitVec.toNat_inj, ClassMap.toNat_classOf (hall op)]
  constructor
  · rintro ⟨hc, hget⟩
    obtain ⟨hlt, rfl⟩ := List.getElem?_eq_some_iff.1 hget
    rw [hnodup.idxOf_getElem]
    omega
  · intro hc
    rw [hc, Nat.add_sub_cancel_left]
    exact ⟨Nat.le_add_right 4 _, List.getElem?_idxOf (hall op)⟩

/-- Classes 0100 to 1110 hold an instruction each (R66). -/
theorem ClassMap.exists_opAt (hlow : 4 ≤ c.toNat) (hhigh : c.toNat < 15) : ∃ op, cm.opAt c = some op := by
  have hlt : c.toNat - 4 < cm.toList.length := by
    rw [Vector.length_toList]
    omega
  exact ⟨_, ClassMap.opAt_eq_some_iff_getElem?.2 ⟨hlow, List.getElem?_eq_getElem hlt⟩⟩

/-- Class 1111 holds no instruction of the map. -/
theorem ClassMap.opAt_fifteen : cm.opAt 15 = none := by
  simp [ClassMap.opAt]

/-- Every class is one of the four fixed ones, or holds an instruction of the map, or is 1111 (R66). -/
theorem ClassMap.class_cases (cm : ClassMap) (c : BitVec 4) :
    c = 0 ∨ c = 1 ∨ c = 2 ∨ c = 3 ∨ (∃ op, cm.opAt c = some op) ∨ c = 15 := by
  by_cases hmap : 4 ≤ c.toNat ∧ c.toNat < 15
  · obtain ⟨hlow, hhigh⟩ := hmap
    exact .inr (.inr (.inr (.inr (.inl (ClassMap.exists_opAt hlow hhigh)))))
  · bv_omega

end

/-- Every selector is one of the four. -/
theorem sel_cases (sel : BitVec 2) : sel = 0 ∨ sel = 1 ∨ sel = 2 ∨ sel = 3 := by
  revert sel
  decide

/-! ## The decoder by the fields of a word, under every class map (R66-R71) -/

section

variable {cm : ClassMap} {w : Word}

theorem decode_nop (cm : ClassMap) : decode cm 0 = .nop := rfl

/-- In class 0000, R67's precedence decides. -/
theorem decode_of_class_zero (hc : fieldClass w = 0) : decode cm w = decodeCompound w := by
  rw [decode, if_pos hc]

/-- The jump family (R68). -/
theorem decode_of_jump (hc : fieldClass w = 0) (hb : fieldBit11 w = true) : decode cm w = decodeJump w := by
  have hne : w ≠ 0 := by
    rintro rfl
    cases hb
  rw [decode_of_class_zero hc, decodeCompound, if_neg hne, if_pos hb]

/-! The selectors and `w[11]` within a class, an instruction at a time. -/

theorem decode_jmp (hc : fieldClass w = 0) (hb : fieldBit11 w = true) (hs : fieldSel w = 0) :
    decode cm w = .jmp (fieldImm9 w) := by
  simp [decode_of_jump hc hb, decodeJump, hs]

theorem decode_jeq (hc : fieldClass w = 0) (hb : fieldBit11 w = true) (hs : fieldSel w = 1) :
    decode cm w = .jeq (fieldImm9 w) := by
  simp [decode_of_jump hc hb, decodeJump, hs]

theorem decode_jlt (hc : fieldClass w = 0) (hb : fieldBit11 w = true) (hs : fieldSel w = 2) :
    decode cm w = .jlt (fieldImm9 w) := by
  simp [decode_of_jump hc hb, decodeJump, hs]

theorem decode_jgt (hc : fieldClass w = 0) (hb : fieldBit11 w = true) (hs : fieldSel w = 3) :
    decode cm w = .jgt (fieldImm9 w) := by
  simp [decode_of_jump hc hb, decodeJump, hs]

/-- A word with a selector is not NOP's. -/
theorem ne_zero_of_fieldSel (h : fieldSel w ≠ 0) : w ≠ 0 := by
  rintro rfl
  exact h rfl

theorem decode_psh (hc : fieldClass w = 0) (hb : fieldBit11 w = false) (hs : fieldSel w = 1) :
    decode cm w = .psh (fieldN w) := by
  rw [decode_of_class_zero hc, decodeCompound, if_neg (ne_zero_of_fieldSel (by simp [hs]))]
  simp [hb, hs]

theorem decode_pop (hc : fieldClass w = 0) (hb : fieldBit11 w = false) (hs : fieldSel w = 2) :
    decode cm w = .pop (fieldPopD w) := by
  rw [decode_of_class_zero hc, decodeCompound, if_neg (ne_zero_of_fieldSel (by simp [hs]))]
  simp [hb, hs]

theorem decode_cmp (hc : fieldClass w = 0) (hb : fieldBit11 w = false) (hs : fieldSel w = 3) :
    decode cm w = .cmp (fieldM w) (fieldN w) := by
  rw [decode_of_class_zero hc, decodeCompound, if_neg (ne_zero_of_fieldSel (by simp [hs]))]
  simp [hb, hs]

theorem decode_reserved0 (hc : fieldClass w = 0) (hb : fieldBit11 w = false) (hs : fieldSel w = 0) (hne : w ≠ 0) :
    decode cm w = .reserved0 (fieldImm9 w) := by
  rw [decode_of_class_zero hc, decodeCompound, if_neg hne]
  simp [hb, hs, fieldImm9]

theorem decode_movReg (hc : fieldClass w = 1) (hb : fieldBit11 w = false) :
    decode cm w = .movReg (fieldD w) (fieldM w) := by
  simp [decode, hc, hb]

theorem decode_movImm (hc : fieldClass w = 1) (hb : fieldBit11 w = true) :
    decode cm w = .movImm (fieldD w) (fieldMovImm w) := by
  simp [decode, hc, hb]

theorem decode_strReg (hc : fieldClass w = 2) (hb : fieldBit11 w = false) :
    decode cm w = .strReg (fieldM w) (fieldN w) := by
  simp [decode, hc, hb]

theorem decode_strImm (hc : fieldClass w = 2) (hb : fieldBit11 w = true) :
    decode cm w = .strImm (fieldM w) (fieldStrImm w) := by
  simp [decode, hc, hb]

theorem decode_ldr (hc : fieldClass w = 3) : decode cm w = .ldr (fieldD w) (fieldM w) := by
  simp [decode, hc]

theorem decode_halt (hc : fieldClass w = 15) : decode cm w = .halt := by
  have hmap : cm.opAt 15#4 = none := ClassMap.opAt_fifteen
  simp [decode, hc, hmap]

/-- A class that the map gives to `op` (R66). -/
theorem decode_of_opAt {op : AluOp} (hop : cm.opAt (fieldClass w) = some op) : decode cm w = decodeAlu op w := by
  obtain ⟨hlow, -⟩ := ClassMap.opAt_eq_some_iff_getElem?.1 hop
  have hne (c : BitVec 4) (hc : c.toNat < 4) : fieldClass w ≠ c := by
    rintro rfl
    omega
  rw [decode, if_neg (hne 0 (by decide)), if_neg (hne 1 (by decide)), if_neg (hne 2 (by decide)),
    if_neg (hne 3 (by decide)), hop]

end

/-! ## The round trip -/

section

variable {cm : ClassMap} {w : Word}

/-- R72 and R73 for one word and one instruction: `i` is an instruction, and the word carries its encoding in the bits
that `i`'s format names. -/
def CarriesEncoding (cm : ClassMap) (w : Word) (i : Instr) : Prop :=
  i.wf = true ∧ w &&& namedBits i = encode cm i

/-- A jump (R68). -/
theorem carriesEncoding_decode_jump (hc : fieldClass w = 0) (hb : fieldBit11 w = true) :
    CarriesEncoding cm w (decode cm w) := by
  have hJ {sel : BitVec 2} (hs : fieldSel w = sel) : w &&& 0xFFFF = encodeJ sel (fieldImm9 w) :=
    (BitVec.and_allOnes (x := w)).trans (eq_encodeJ_iff.2 ⟨hc, hb, rfl, hs⟩)
  obtain hs | hs | hs | hs := sel_cases (fieldSel w)
  · rw [decode_jmp hc hb hs]
    exact ⟨rfl, hJ hs⟩
  · rw [decode_jeq hc hb hs]
    exact ⟨rfl, hJ hs⟩
  · rw [decode_jlt hc hb hs]
    exact ⟨rfl, hJ hs⟩
  · rw [decode_jgt hc hb hs]
    exact ⟨rfl, hJ hs⟩

/-- The rest of class 0000 (R67, R70). -/
theorem carriesEncoding_decode_compound (hc : fieldClass w = 0) (hb : fieldBit11 w = false) :
    CarriesEncoding cm w (decode cm w) := by
  obtain hs | hs | hs | hs := sel_cases (fieldSel w)
  · by_cases hzero : w = 0
    · rw [hzero, decode_nop]
      exact ⟨rfl, rfl⟩
    · have himm : fieldImm9 w ≠ 0 := fun h => hzero (eq_zero_iff.2 ⟨hc, hb, h, hs⟩)
      rw [decode_reserved0 hc hb hs hzero]
      exact ⟨bne_iff_ne.2 himm, named_reserved0_iff.2 ⟨hc, hb, rfl, hs⟩⟩
  · rw [decode_psh hc hb hs]
    exact ⟨rfl, named_psh_iff.2 ⟨hc, hb, rfl, hs⟩⟩
  · rw [decode_pop hc hb hs]
    exact ⟨rfl, named_pop_iff.2 ⟨hc, hb, rfl, hs⟩⟩
  · rw [decode_cmp hc hb hs]
    exact ⟨rfl, named_cmp_iff.2 ⟨hc, hb, rfl, rfl, hs⟩⟩

/-- A class of the map (R66). -/
theorem carriesEncoding_decode_alu {op : AluOp} (hcm : cm.wf = true) (hop : cm.opAt (fieldClass w) = some op) :
    CarriesEncoding cm w (decode cm w) := by
  have hc : fieldClass w = cm.classOf op := (ClassMap.opAt_eq_some_iff hcm).1 hop
  rw [decode_of_opAt hop]
  cases op
  case add | sub | mul | and | orr | xor => exact ⟨rfl, and_eq_encodeA3_iff.2 ⟨hc, rfl, rfl, rfl⟩⟩
  case shr | shl => exact ⟨rfl, and_eq_encodeSH_iff.2 ⟨hc, rfl, rfl, rfl⟩⟩
  case not | ror | rol => exact ⟨rfl, and_eq_encodeSH_zero_iff.2 ⟨hc, rfl, rfl⟩⟩

/-- Every word carries the encoding of what it decodes to, by the class and then `w[11]`. -/
theorem carriesEncoding_decode (hcm : cm.wf = true) (w : Word) : CarriesEncoding cm w (decode cm w) := by
  obtain hc | hc | hc | hc | ⟨op, hop⟩ | hc := ClassMap.class_cases cm (fieldClass w)
  · cases hb : fieldBit11 w with
    | true => exact carriesEncoding_decode_jump hc hb
    | false => exact carriesEncoding_decode_compound hc hb
  · cases hb : fieldBit11 w with
    | true =>
      rw [decode_movImm hc hb]
      exact ⟨rfl, named_movImm_iff.2 ⟨hc, hb, rfl, rfl⟩⟩
    | false =>
      rw [decode_movReg hc hb]
      exact ⟨rfl, named_movReg_iff.2 ⟨hc, hb, rfl, rfl⟩⟩
  · cases hb : fieldBit11 w with
    | true =>
      rw [decode_strImm hc hb]
      exact ⟨rfl, named_strImm_iff.2 ⟨hc, hb, rfl, rfl⟩⟩
    | false =>
      rw [decode_strReg hc hb]
      exact ⟨rfl, named_strReg_iff.2 ⟨hc, hb, rfl, rfl⟩⟩
  · rw [decode_ldr hc]
    exact ⟨rfl, and_eq_encodeSH_zero_iff.2 ⟨hc, rfl, rfl⟩⟩
  · exact carriesEncoding_decode_alu hcm hop
  · rw [decode_halt hc]
    exact ⟨rfl, and_F000_eq_iff.2 hc⟩

/-- A word that carries the encoding of an instruction decodes to it, whatever its other bits are (R69). -/
theorem decode_of_carriesEncoding {i : Instr} (hcm : cm.wf = true) (h : CarriesEncoding cm w i) : decode cm w = i := by
  have hmap {op : AluOp} (hc : fieldClass w = cm.classOf op) : decode cm w = decodeAlu op w :=
    decode_of_opAt ((ClassMap.opAt_eq_some_iff hcm).2 hc)
  have hfull : w &&& 0xFFFF = w := BitVec.and_allOnes
  obtain ⟨hwf, hnamed⟩ := h
  cases i
  case nop =>
    obtain rfl : w = 0 := hfull.symm.trans hnamed
    exact decode_nop cm
  case jmp | jeq | jlt | jgt =>
    obtain ⟨hc, hb, rfl, hs⟩ := eq_encodeJ_iff.1 (hfull.symm.trans hnamed)
    simp [decode_of_jump hc hb, decodeJump, hs]
  case psh =>
    obtain ⟨hc, hb, rfl, hs⟩ := named_psh_iff.1 hnamed
    exact decode_psh hc hb hs
  case pop =>
    obtain ⟨hc, hb, rfl, hs⟩ := named_pop_iff.1 hnamed
    exact decode_pop hc hb hs
  case cmp =>
    obtain ⟨hc, hb, rfl, rfl, hs⟩ := named_cmp_iff.1 hnamed
    exact decode_cmp hc hb hs
  case reserved0 =>
    obtain ⟨hc, hb, rfl, hs⟩ := named_reserved0_iff.1 hnamed
    refine decode_reserved0 hc hb hs ?_
    rintro rfl
    cases hwf
  case movReg =>
    obtain ⟨hc, hb, rfl, rfl⟩ := named_movReg_iff.1 hnamed
    exact decode_movReg hc hb
  case movImm =>
    obtain ⟨hc, hb, rfl, rfl⟩ := named_movImm_iff.1 hnamed
    exact decode_movImm hc hb
  case strReg =>
    obtain ⟨hc, hb, rfl, rfl⟩ := named_strReg_iff.1 hnamed
    exact decode_strReg hc hb
  case strImm =>
    obtain ⟨hc, hb, rfl, rfl⟩ := named_strImm_iff.1 hnamed
    exact decode_strImm hc hb
  case ldr =>
    obtain ⟨hc, rfl, rfl⟩ := and_eq_encodeSH_zero_iff.1 hnamed
    exact decode_ldr hc
  case add | sub | mul | and | orr | xor =>
    obtain ⟨hc, rfl, rfl, rfl⟩ := and_eq_encodeA3_iff.1 hnamed
    exact hmap hc
  case shr | shl =>
    obtain ⟨hc, rfl, rfl, rfl⟩ := and_eq_encodeSH_iff.1 hnamed
    exact hmap hc
  case not | ror | rol =>
    obtain ⟨hc, rfl, rfl⟩ := and_eq_encodeSH_zero_iff.1 hnamed
    exact hmap hc
  case halt => exact decode_halt (and_F000_eq_iff.1 hnamed)

/-- What the decoder computes: a word decodes to the one instruction whose encoding it carries. -/
theorem decode_eq_iff {i : Instr} (hcm : cm.wf = true) : decode cm w = i ↔ CarriesEncoding cm w i := by
  constructor
  · rintro rfl
    exact carriesEncoding_decode hcm w
  · exact decode_of_carriesEncoding hcm

/-- Format A3 has 0 in its don't-care bits. -/
theorem encodeA3_and_named (c : BitVec 4) (d m n : Reg) : encodeA3 c d m n &&& 0xF7FC = encodeA3 c d m n := by
  apply BitVec.eq_of_getLsbD_eq
  intro i hi
  simp only [encodeA3, BitVec.getLsbD_and, BitVec.getLsbD_append]
  interval_cases i <;> simp

/-- Format SH has 0 in its one don't-care bit. -/
theorem encodeSH_and_named (c : BitVec 4) (d m : Reg) (k : BitVec 5) :
    encodeSH c d m k &&& 0xF7FF = encodeSH c d m k := by
  apply BitVec.eq_of_getLsbD_eq
  intro i hi
  simp only [encodeSH, BitVec.getLsbD_and, BitVec.getLsbD_append]
  interval_cases i <;> simp

/-- Formats A2 and L have 0 where format SH has its count. -/
theorem encodeSH_zero_and_named (c : BitVec 4) (d m : Reg) : encodeSH c d m 0 &&& 0xF7E0 = encodeSH c d m 0 := by
  apply BitVec.eq_of_getLsbD_eq
  intro i hi
  simp only [encodeSH, BitVec.getLsbD_and, BitVec.getLsbD_append]
  interval_cases i <;> simp

/-- The encoder writes 0 in every don't-care bit (R73). -/
theorem encode_and_namedBits (cm : ClassMap) (i : Instr) : encode cm i &&& namedBits i = encode cm i := by
  cases i
  case nop | jmp | jeq | jlt | jgt | reserved0 | movImm | strImm => exact BitVec.and_allOnes
  case add | sub | mul | and | orr | xor => exact encodeA3_and_named ..
  case shr | shl => exact encodeSH_and_named ..
  case ldr | not | ror | rol => exact encodeSH_zero_and_named ..
  case psh | pop | cmp | movReg | strReg | halt =>
    apply BitVec.eq_of_getLsbD_eq
    intro j hj
    simp only [encode, encodeSH, namedBits, BitVec.getLsbD_and, BitVec.getLsbD_append]
    interval_cases j <;> simp

end

/-- Settles O10, by `decode_eq_iff`: the encoding carries itself. -/
theorem decodeOfEncode : Obligations.DecodeOfEncode :=
  fun cm i hcm hi => (decode_eq_iff hcm).2 ⟨hi, encode_and_namedBits cm i⟩

/-- Settles O11, by `decode_eq_iff`: the word carries the encoding of what it decodes to. -/
theorem encodeOfDecode : Obligations.EncodeOfDecode := by
  intro cm w hcm
  obtain ⟨-, hnamed⟩ := (decode_eq_iff hcm).1 (rfl : decode cm w = _)
  exact hnamed.symm

/-- Settles O12, by `decode_eq_iff`: a word with the same named bits carries the same encoding. -/
theorem everyWordIsOneInstruction : Obligations.EveryWordIsOneInstruction := by
  intro cm w hcm
  obtain ⟨hwf, hnamed⟩ := (decode_eq_iff hcm).1 (rfl : decode cm w = _)
  exact ⟨hwf, fun v hv => (decode_eq_iff hcm).2 ⟨hwf, hv.trans hnamed⟩⟩

/-! ## The reserved words (R70) -/

/-- The class as a number. -/
theorem fieldClass_eq_iff {w : Word} {c : BitVec 4} : fieldClass w = c ↔ w.toNat / 4096 = c.toNat := by
  rw [← BitVec.toNat_inj, fieldClass, BitVec.extractLsb'_toNat, Nat.shiftRight_eq_div_pow]
  omega

/-- The selector as a number. -/
theorem fieldSel_eq_iff {w : Word} {sel : BitVec 2} : fieldSel w = sel ↔ w.toNat % 4 = sel.toNat := by
  simp [← BitVec.toNat_inj, fieldSel]

/-- A word of the jump family is not reserved. -/
theorem decodeJump_ne_reserved0 (w : Word) (bits : BitVec 9) : decodeJump w ≠ .reserved0 bits := by
  unfold decodeJump
  split_ifs <;> exact Instr.noConfusion

/-- A word of the map's classes is not reserved. -/
theorem decodeAlu_ne_reserved0 (op : AluOp) (w : Word) (bits : BitVec 9) : decodeAlu op w ≠ .reserved0 bits := by
  cases op <;> exact Instr.noConfusion

/-- The reserved words, by their fields: every other class, the jump family and every other selector is another
instruction's. -/
theorem exists_decode_eq_reserved0_iff {cm : ClassMap} {w : Word} : (∃ bits, decode cm w = .reserved0 bits) ↔
    fieldClass w = 0 ∧ fieldBit11 w = false ∧ fieldSel w = 0 ∧ w ≠ 0 := by
  constructor
  · rintro ⟨bits, h⟩
    obtain hc | hc | hc | hc | ⟨op, hop⟩ | hc := ClassMap.class_cases cm (fieldClass w)
    · have hne : w ≠ 0 := by
        rintro rfl
        cases h
      cases hb : fieldBit11 w with
      | true =>
        rw [decode_of_jump hc hb] at h
        exact absurd h (decodeJump_ne_reserved0 w bits)
      | false =>
        obtain hs | hs | hs | hs := sel_cases (fieldSel w)
        · exact ⟨hc, rfl, hs, hne⟩
        · simp [decode_psh hc hb hs] at h
        · simp [decode_pop hc hb hs] at h
        · simp [decode_cmp hc hb hs] at h
    · cases hb : fieldBit11 w with
      | true => simp [decode_movImm hc hb] at h
      | false => simp [decode_movReg hc hb] at h
    · cases hb : fieldBit11 w with
      | true => simp [decode_strImm hc hb] at h
      | false => simp [decode_strReg hc hb] at h
    · simp [decode_ldr hc] at h
    · rw [decode_of_opAt hop] at h
      exact absurd h (decodeAlu_ne_reserved0 op w bits)
    · simp [decode_halt hc] at h
  · rintro ⟨hc, hb, hs, hne⟩
    exact ⟨_, decode_reserved0 hc hb hs hne⟩

/-- Settles O13, by the fields' numbers. -/
theorem reservedWordsExactly : Obligations.ReservedWordsExactly := by
  intro cm w
  rw [exists_decode_eq_reserved0_iff, fieldClass_eq_iff, fieldSel_eq_iff, fieldBit11]
  rfl

/-! ## The rows of spec/opcode_table.json outside the map, under every class map (R66-R68) -/

section

variable {cm : ClassMap} {w : Word}

/-! Each row's mask and match are the ones that `OpcodeTableRowsDecode` writes out. -/

theorem decode_jmp_of_row (h : w &&& 0xF803 = 0x0800) : decode cm w = .jmp (fieldImm9 w) := by
  obtain ⟨hc, hb, hs⟩ := (and_F803_eq_iff (head := 1) (sel := 0)).1 h
  exact decode_jmp hc hb hs

theorem decode_jeq_of_row (h : w &&& 0xF803 = 0x0801) : decode cm w = .jeq (fieldImm9 w) := by
  obtain ⟨hc, hb, hs⟩ := (and_F803_eq_iff (head := 1) (sel := 1)).1 h
  exact decode_jeq hc hb hs

theorem decode_jlt_of_row (h : w &&& 0xF803 = 0x0802) : decode cm w = .jlt (fieldImm9 w) := by
  obtain ⟨hc, hb, hs⟩ := (and_F803_eq_iff (head := 1) (sel := 2)).1 h
  exact decode_jlt hc hb hs

theorem decode_jgt_of_row (h : w &&& 0xF803 = 0x0803) : decode cm w = .jgt (fieldImm9 w) := by
  obtain ⟨hc, hb, hs⟩ := (and_F803_eq_iff (head := 1) (sel := 3)).1 h
  exact decode_jgt hc hb hs

theorem decode_psh_of_row (h : w &&& 0xF803 = 0x0001) : decode cm w = .psh (fieldN w) := by
  obtain ⟨hc, hb, hs⟩ := (and_F803_eq_iff (head := 0) (sel := 1)).1 h
  exact decode_psh hc hb hs

theorem decode_pop_of_row (h : w &&& 0xF803 = 0x0002) : decode cm w = .pop (fieldPopD w) := by
  obtain ⟨hc, hb, hs⟩ := (and_F803_eq_iff (head := 0) (sel := 2)).1 h
  exact decode_pop hc hb hs

theorem decode_cmp_of_row (h : w &&& 0xF803 = 0x0003) : decode cm w = .cmp (fieldM w) (fieldN w) := by
  obtain ⟨hc, hb, hs⟩ := (and_F803_eq_iff (head := 0) (sel := 3)).1 h
  exact decode_cmp hc hb hs

theorem decode_reserved0_of_row (h : w &&& 0xF803 = 0x0000) (hne : w ≠ 0) :
    decode cm w = .reserved0 (fieldImm9 w) := by
  obtain ⟨hc, hb, hs⟩ := (and_F803_eq_iff (head := 0) (sel := 0)).1 h
  exact decode_reserved0 hc hb hs hne

theorem decode_movReg_of_row (h : w &&& 0xF800 = 0x1000) : decode cm w = .movReg (fieldD w) (fieldM w) := by
  obtain ⟨hc, hb⟩ := (and_F800_eq_iff (head := 2)).1 h
  exact decode_movReg hc hb

theorem decode_movImm_of_row (h : w &&& 0xF800 = 0x1800) : decode cm w = .movImm (fieldD w) (fieldMovImm w) := by
  obtain ⟨hc, hb⟩ := (and_F800_eq_iff (head := 3)).1 h
  exact decode_movImm hc hb

theorem decode_strReg_of_row (h : w &&& 0xF800 = 0x2000) : decode cm w = .strReg (fieldM w) (fieldN w) := by
  obtain ⟨hc, hb⟩ := (and_F800_eq_iff (head := 4)).1 h
  exact decode_strReg hc hb

theorem decode_strImm_of_row (h : w &&& 0xF800 = 0x2800) : decode cm w = .strImm (fieldM w) (fieldStrImm w) := by
  obtain ⟨hc, hb⟩ := (and_F800_eq_iff (head := 5)).1 h
  exact decode_strImm hc hb

theorem decode_ldr_of_row (h : w &&& 0xF000 = 0x3000) : decode cm w = .ldr (fieldD w) (fieldM w) :=
  decode_ldr ((and_F000_eq_iff (c := 3)).1 h)

theorem decode_halt_of_row (h : w &&& 0xF000 = 0xF000) : decode cm w = .halt :=
  decode_halt ((and_F000_eq_iff (c := 15)).1 h)

/-- A row of the default map (D2). -/
theorem decode_of_default_row (op : AluOp) (h : w &&& 0xF000 = defaultClassMap.classOf op ++ (0 : BitVec 12)) :
    decode defaultClassMap w = decodeAlu op w :=
  decode_of_opAt ((ClassMap.opAt_eq_some_iff (by decide)).2 (and_F000_eq_iff.1 h))

end

/-- Settles O14, a row at a time. -/
theorem opcodeTableRowsDecode : Obligations.OpcodeTableRowsDecode := by
  intro w
  refine ⟨?_, decode_jmp_of_row, decode_jeq_of_row, decode_jlt_of_row, decode_jgt_of_row, decode_psh_of_row,
    decode_pop_of_row, decode_cmp_of_row, decode_reserved0_of_row, decode_movReg_of_row, decode_movImm_of_row,
    decode_strReg_of_row, decode_strImm_of_row, decode_ldr_of_row, decode_of_default_row .add,
    decode_of_default_row .sub, decode_of_default_row .mul, decode_of_default_row .and, decode_of_default_row .orr,
    decode_of_default_row .not, decode_of_default_row .xor, decode_of_default_row .shr, decode_of_default_row .shl,
    decode_of_default_row .ror, decode_of_default_row .rol, decode_halt_of_row⟩
  rintro rfl
  exact decode_nop _

/-- Settles O15, a word at a time. -/
theorem specWordsDecode : Obligations.SpecWordsDecode := by
  unfold Obligations.SpecWordsDecode
  decide

/-- Settles O16, by `toNat_wordOfBytes`. -/
theorem instructionIsTwoBytes : Obligations.InstructionIsTwoBytes := by
  refine ⟨fun cm lo hi rest => ?_, fun _ => rfl, fun _ _ => rfl⟩
  have hword : BitVec.ofNat 16 (lo.toNat + 256 * hi.toNat) = wordOfBytes lo hi := by
    rw [← Machine.toNat_wordOfBytes, BitVec.ofNat_toNat, BitVec.setWidth_eq]
  rw [hword]
  rfl

end Sys2Proof

namespace Sys2Proof.Machine

/-! ## The two instructions that stop the engine (R70, R71, R84) -/

/-- Settles O39: the meaning is the stop, and the step after it the fault of that reason. -/
theorem reservedWordStops : Obligations.ReservedWordStops :=
  fun s _ => ⟨s.stop .reservedEncoding, rfl, rfl, rfl, fun _ => rfl, rfl, rfl, rfl, fun _ => rfl, rfl, rfl, rfl,
    ⟨rfl, rfl⟩, rfl⟩

/-- Settles O40: class 1111 by `decode_halt`, and the meaning is the stop. -/
theorem haltStops : Obligations.HaltStops :=
  ⟨fun _ _ hc => decode_halt (fieldClass_eq_iff.2 hc),
    fun s => ⟨s.stop .haltInstruction, rfl, rfl, rfl, fun _ => rfl, rfl, rfl, rfl, fun _ => rfl, rfl, rfl, rfl,
      ⟨rfl, rfl⟩, rfl⟩⟩

end Sys2Proof.Machine
end

section
/-! PROOF of O17, O18, O19, O21, O22, O23, O26 (family 40_engine_loop.md). The step outside an instruction's meaning
(spec/40_engine_loop.md R82-R87, R181), and how long a run can last (R91). -/

namespace Sys2Proof.Machine

/-! ## The three kinds of step (R82-R87) -/

/-- In FETCHING at or past `IMAGE_END`, the step is the stop (R82). -/
theorem step_of_endOfImage {s : State} (hf : s.engineState = .fetching) (hend : s.imageEnd ≤ s.pc.toNat) :
    step s = .next (s.stop .endOfImage) := by
  simp [step, hf, State.atEndOfImage, hend]

/-- In FETCHING below `IMAGE_END`, the step is the fetched instruction's meaning with its outcome finished, whatever
that outcome is (R83-R87). -/
theorem step_of_below {s : State} (hf : s.engineState = .fetching) (hpc : s.pc.toNat < s.imageEnd) :
    step s = finishedOutcome (exec s.fetchedInstr (s.entered s.fetchedInstr)) := by
  simp [step, hf, State.atEndOfImage, hpc]

/-- In HALTED the step is the fault that the stop reason selects (R86). -/
theorem step_of_halted {s : State} (hh : s.engineState = .halted) : step s = .fault s.haltFault := by
  simp [step, hh]

/-- Settles O17: the decoded instruction is the fetched one. -/
theorem stepRunsDecodedInstruction : Obligations.StepRunsDecodedInstruction := by
  rintro s i hf hpc rfl
  exact ⟨step_of_below hf hpc, fun _ => rfl⟩

/-- Settles O18: the step is the stop, which writes the engine's state and the reason only. -/
theorem endOfImageStops : Obligations.EndOfImageStops :=
  fun s hf hend => ⟨s.stop .endOfImage, step_of_endOfImage hf hend, rfl, rfl, rfl, rfl, rfl, rfl, rfl, rfl, rfl, rfl,
    rfl, rfl⟩

/-- Settles O19, an engine state at a time. -/
theorem haltedHasNoStep : Obligations.HaltedHasNoStep := by
  refine ⟨fun s hh hreason => ?_, fun s hh hreason => ?_, fun s hmid => ?_⟩
  · rw [step_of_halted hh, State.haltFault, if_neg hreason]
  · rw [step_of_halted hh, State.haltFault, if_pos hreason]
  · obtain hd | he := hmid
    · simp [step, hd]
    · simp [step, he]

/-! ## No instruction traps (R85, R180) -/

/-- Every instruction has a next state from every state (R85). -/
theorem exec_total (i : Instr) (s : State) : ∃ t, exec i s = .next t := by
  cases i <;> exact ⟨_, rfl⟩

/-- Settles O26, by `exec_total` and `exec_engine_of_executing`. -/
theorem noInstructionTraps : Obligations.NoInstructionTraps := by
  intro i s
  obtain ⟨t, ht⟩ := exec_total i s
  exact ⟨t, ht, exec_engine_of_executing ht⟩

/-- Every instruction but HALT and the reserved words is executed (R84). -/
theorem entersExecuting_of_ne {i : Instr} (hhalt : i ≠ .halt) (hres : ¬ ∃ bits, i = .reserved0 bits) :
    entersExecuting i = true := by
  cases i
  case halt => exact absurd rfl hhalt
  case reserved0 bits => exact absurd ⟨bits, rfl⟩ hres
  all_goals rfl

/-- Settles O21: past the image the step is the stop; below it, the fetched instruction's meaning, which is a stop for
HALT and the reserved words and leaves the engine to go back to FETCHING for every other. -/
theorem engineHaltsInExactlyThreeCases : Obligations.EngineHaltsInExactlyThreeCases := by
  intro s hf
  obtain hend | hpc := le_or_gt s.imageEnd s.pc.toNat
  · have hnot : ¬ s.pc.toNat < s.imageEnd := Nat.not_lt.2 hend
    exact ⟨s.stop .endOfImage, step_of_endOfImage hf hend, fun _ => ⟨rfl, rfl, rfl⟩, fun h => absurd h hnot,
      fun h => absurd h hnot, fun h => absurd h hnot⟩
  · obtain ⟨u, hu⟩ := exec_total s.fetchedInstr (s.entered s.fetchedInstr)
    refine ⟨u.finished, step_of_exec hf hpc hu, fun h => absurd hpc (Nat.not_lt.2 h), fun _ hhalt => ?_,
      fun _ hres => ?_, fun _ hhalt hres => ?_⟩
    · rw [hhalt] at hu
      simp [next_inj hu]
    · obtain ⟨bits, hbits⟩ := hres
      rw [hbits] at hu
      simp [next_inj hu]
    · have hexec : entersExecuting s.fetchedInstr = true := entersExecuting_of_ne hhalt hres
      obtain ⟨hengine, hreason⟩ := exec_engine_of_executing hu hexec
      simp [hengine, hreason, hexec]

/-! ## Runs of several steps -/

/-- A run of one step more takes that step first. -/
theorem stepMany_succ {s t : State} (h : step s = .next t) (k : Nat) : stepMany (k + 1) s = stepMany k t := by
  simp [stepMany, h]

/-- A property that always allows a step and outlasts it holds after any number of steps. -/
theorem stepMany_of_kept {P : State → Prop} (hstep : ∀ s, P s → ∃ t, step s = .next t ∧ P t) (k : Nat) :
    ∀ s, P s → ∃ t, stepMany k s = .next t ∧ P t := by
  induction k with
  | zero => exact fun s hs => ⟨s, rfl, hs⟩
  | succ k ih =>
    intro s hs
    obtain ⟨t, ht, hPt⟩ := hstep s hs
    rw [stepMany_succ ht]
    exact ih t hPt

/-! ## A short image's run is bounded (R91) -/

/-- A jump, taken or not, adds at most 511 to `pc`: its offset is an unsigned 9-bit field (R63, R101). -/
theorem State.jumpIf_pc_eq_add (s : State) (p : Bool) (imm9 : BitVec 9) :
    ∃ o : Word, o.toNat ≤ 511 ∧ (s.jumpIf p (jumpOffset imm9)).pc = s.pc + o := by
  cases p with
  | false => exact ⟨0, Nat.zero_le _, (BitVec.add_zero s.pc).symm⟩
  | true =>
    refine ⟨jumpOffset imm9, ?_, rfl⟩
    rw [jumpOffset, BitVec.toNat_setWidth_of_le (by decide)]
    exact Nat.le_of_lt_succ imm9.isLt

/-- No instruction adds more than 511 to the `pc` it runs with (R25, R101). -/
theorem exec_pc_eq_add {i : Instr} {s t : State} (h : exec i s = .next t) :
    ∃ o : Word, o.toNat ≤ 511 ∧ t.pc = s.pc + o := by
  cases hjump : isJump i with
  | false => exact ⟨0, Nat.zero_le _, (programCounterOnlyByJumps i s t h hjump).trans (BitVec.add_zero s.pc).symm⟩
  | true =>
    cases i
    case jmp | jeq | jlt | jgt =>
      rw [next_inj h]
      exact State.jumpIf_pc_eq_add ..
    all_goals cases hjump

/-- With `IMAGE_END` at most 0xFDFF a step below it does not wrap `pc`: it stops the engine or moves `pc` on by 2 or
more. The largest new `pc` is 0xFDFE + 2 + 511 = 0xFFFF. -/
theorem step_advances {s : State} (hf : s.engineState = .fetching) (hend : s.imageEnd ≤ 0xFDFF)
    (hpc : s.pc.toNat < s.imageEnd) :
    ∃ t, step s = .next t ∧ t.imageEnd = s.imageEnd ∧
      (t.engineState = .halted ∨ t.engineState = .fetching ∧ s.pc.toNat + 2 ≤ t.pc.toNat) := by
  obtain ⟨u, hu⟩ := exec_total s.fetchedInstr (s.entered s.fetchedInstr)
  refine ⟨u.finished, step_of_exec hf hpc hu, by simp [exec_imageEnd hu], ?_⟩
  by_cases hhalt : u.engineState = .halted
  · exact .inl (by simp [hhalt])
  · refine .inr ⟨by simp [hhalt], ?_⟩
    obtain ⟨o, ho, hupc⟩ := exec_pc_eq_add hu
    have htwo : (2 : Word).toNat = 2 := rfl
    rw [State.finished_pc, hupc, State.entered_pc, BitVec.toNat_add, BitVec.toNat_add, htwo]
    omega

/-- From FETCHING with at most `2 * n` bytes of a short image ahead, the engine is in HALTED after at most `n`
instructions and the step that stops it. -/
theorem halts_of_bytes_ahead (n : Nat) : ∀ s : State, s.engineState = .fetching → s.imageEnd ≤ 0xFDFF →
    s.imageEnd ≤ s.pc.toNat + 2 * n → ∃ k t, k ≤ n + 1 ∧ stepMany k s = .next t ∧ t.engineState = .halted := by
  induction n with
  | zero => exact fun s hf _ hahead => ⟨1, _, le_rfl, stepMany_succ (step_of_endOfImage hf hahead) 0, rfl⟩
  | succ n ih =>
    intro s hf hend hahead
    obtain hstop | hpc := le_or_gt s.imageEnd s.pc.toNat
    · exact ⟨1, _, by omega, stepMany_succ (step_of_endOfImage hf hstop) 0, rfl⟩
    obtain ⟨t, ht, himage, hhalt | ⟨hfetch, hadvance⟩⟩ := step_advances hf hend hpc
    · exact ⟨1, t, by omega, stepMany_succ ht 0, hhalt⟩
    · obtain ⟨k, u, hk, hu, hhalt⟩ := ih t hfetch (by omega) (by omega)
      exact ⟨k + 1, u, by omega, (stepMany_succ ht k).trans hu, hhalt⟩

/-- Settles O22, by `halts_of_bytes_ahead` from `pc` 0. -/
theorem boundedImageRunHalts : Obligations.BoundedImageRunHalts := by
  intro s hf hpc hend
  have hahead : s.imageEnd ≤ s.pc.toNat + 2 * ((s.imageEnd + 1) / 2) := by omega
  exact halts_of_bytes_ahead _ s hf hend hahead

/-! ## A long image's run need not end (R91, U9) -/

/-- A run that only ever fetches NOPs: memory is all zero bytes, and no `pc` reaches `IMAGE_END` (R82). -/
structure State.NopsForever (s : State) : Prop where
  fetching : s.engineState = .fetching
  mem : s.mem = []
  imageEnd : 0x10000 ≤ s.imageEnd

/-- In a memory of zero bytes every fetched word is NOP, under every class map. -/
theorem State.NopsForever.fetchedInstr {s : State} (h : s.NopsForever) : s.fetchedInstr = .nop := by
  have hword : s.fetchedWord = 0 := by
    simp only [State.fetchedWord, State.readWord, State.readByte, h.mem, Memory.read_nil]
    rfl
  rw [State.fetchedInstr, hword, decode_nop]

/-- A NOP of such a run is followed by another, at 0xFFFE by the one at address 0. -/
theorem State.NopsForever.exists_step {s : State} (h : s.NopsForever) : ∃ t, step s = .next t ∧ t.NopsForever := by
  obtain ⟨u, hu⟩ := exec_total s.fetchedInstr (s.entered s.fetchedInstr)
  have hpc : s.pc.toNat < s.imageEnd := Nat.lt_of_lt_of_le s.pc.isLt h.imageEnd
  refine ⟨u.finished, step_of_exec h.fetching hpc hu, ?_⟩
  rw [h.fetchedInstr] at hu
  obtain ⟨hengine, -⟩ := exec_engine_of_executing hu rfl
  obtain ⟨-, hmem⟩ | ⟨_, _, hstore, -⟩ := exec_mem_cases hu
  · exact {
      fetching := by simp [hengine, entersExecuting]
      mem := by simp [hmem, h.mem]
      imageEnd := by simpa [exec_imageEnd hu] using h.imageEnd }
  · cases hstore

/-- The start of a run of one zero word loaded at 0xFFFE into the memory of `State.reset`, so that `IMAGE_END` is
0x10000. -/
def nopRun : State := (State.reset.loadPair (0xFFFE, 0)).runReset

/-- The host leads the machine there, by a load and a run. -/
theorem nopRun_of_host :
    hostLoad [(0xFFFE, 0)] State.reset = .next (State.reset.loadPair (0xFFFE, 0)) ∧
      hostRun (State.reset.loadPair (0xFFFE, 0)) = .next nopRun :=
  ⟨rfl, hostRun_eq_runReset (by decide) (by decide) rfl⟩

/-- The run starts in the invariant. -/
theorem nopRun_inv : nopRun.Inv := by
  constructor <;> decide

/-- The run fetches only NOPs: the loaded zero word lists no cell. -/
theorem nopRun_nopsForever : nopRun.NopsForever := by
  constructor <;> decide

/-- Settles O23 with `nopRun`, whose steps `State.NopsForever` outlasts. -/
theorem longImageRunMayNotHalt : Obligations.LongImageRunMayNotHalt := by
  refine ⟨nopRun, nopRun_inv, by decide, fun k => ?_⟩
  obtain ⟨t, ht, hnops⟩ := stepMany_of_kept (fun _ => State.NopsForever.exists_step) k nopRun nopRun_nopsForever
  exact ⟨t, ht, hnops.fetching⟩

end Sys2Proof.Machine
end

section
/-! PROOF of O34, O35, O36, O37, O38, O56, O57, O58 (family 41_compound_group.md). What NOP, the jumps, PSH, POP and
CMP do (spec/41_compound_group.md R100-R108), and the laws of the stack (section 4, R109, R110). -/

namespace Sys2Proof.Machine

/-! ## The tables of what an instruction may change, as frames -/

section

variable {i : Instr} {s t : State}

/-- An instruction without a register in R22's table keeps every register. -/
theorem exec_keepsRegs (h : exec i s = .next t) (hi : regWritten i = none) : keepsRegs s t :=
  fun _ => exec_reg_of_not_written h (by simp [hi])

/-- An instruction keeps every register but the one R22's table gives it. -/
theorem exec_keepsRegsBut {d : Reg} (h : exec i s = .next t) (hi : regWritten i = some d) : keepsRegsBut d s t :=
  fun _ he => exec_reg_of_not_written h (by simpa [hi] using Ne.symm he)

/-- An instruction outside all columns of R29's table keeps the flags. -/
theorem exec_flags (h : exec i s = .next t) (hc : writesC i = false) (hov : writesOv i = false)
    (hzs : writesZS i = false) : t.flags = s.flags := by
  obtain ⟨hz, hsgn⟩ := exec_zs h hzs
  calc t.flags = ⟨t.flags.c, t.flags.ov, t.flags.z, t.flags.s⟩ := rfl
    _ = s.flags := by rw [exec_c h hc, exec_ov h hov, hz, hsgn]

/-- An instruction that stores nothing keeps memory. -/
theorem exec_keepsMemory (h : exec i s = .next t) (hi : storeAddr s i = none) : keepsMemory s t := by
  obtain ⟨-, hmem⟩ | ⟨a, v, hsome, -⟩ := exec_mem_cases h
  · exact State.readByte_congr s t hmem
  · simp [hi] at hsome

/-- An instruction that is executed leaves the engine and the parameters alone. -/
theorem exec_keepsEngine (h : exec i s = .next t) (hi : entersExecuting i = true) : keepsEngine s t := by
  obtain ⟨hengine, hreason⟩ := exec_engine_of_executing h hi
  exact ⟨exec_imageEnd h, hengine, hreason, exec_runBegun h, exec_cfg h⟩

end

/-! ## NOP and CMP (R100, R108) -/

/-- Settles O34: NOP is in no table but the one of the events. -/
theorem nopOnlyDumps : Obligations.NopOnlyDumps := by
  refine ⟨decode_nop, fun s => ?_⟩
  have h : exec .nop s = .next (s.emitIf s.cfg.nopDump (.dump s.snapshot)) := rfl
  exact ⟨_, h, exec_keepsRegs h rfl, exec_flags h rfl rfl rfl, programCounterOnlyByJumps _ _ _ h rfl, by simp,
    exec_keepsMemory h rfl, exec_keepsEngine h rfl, exec_draws h, s.emitIf_events _ _⟩

/-- CMP's Z is equality of the operands as numbers (R108). -/
theorem Flags.withCmp_z_iff (f : Flags) (a b : Word) : (f.withCmp a b).z = true ↔ a.toNat = b.toNat := by
  simp [Flags.withCmp, BitVec.toNat_inj]

/-- CMP's S is their order, unsigned (R108). -/
theorem Flags.withCmp_s_iff (f : Flags) (a b : Word) : (f.withCmp a b).s = true ↔ a.toNat < b.toNat :=
  decide_eq_true_iff

/-- Settles O38: CMP writes the flags and no other field. -/
theorem compareSetsZeroAndSign : Obligations.CompareSetsZeroAndSign :=
  ⟨fun _ _ => decode_cmp_of_row, fun _ _ _ => ⟨_, rfl, Flags.withCmp_z_iff .., Flags.withCmp_s_iff .., rfl, rfl,
    fun _ => rfl, rfl, rfl, fun _ => rfl, ⟨rfl, rfl, rfl, rfl, rfl⟩, rfl, rfl⟩⟩

/-! ## The jumps (R101-R105) -/

/-- JEQ's condition (R103). -/
theorem Flags.condEq_iff (f : Flags) : f.condEq = true ↔ f.z = true ∧ f.s = false := by
  simp [Flags.condEq]

/-- JLT's condition (R104). -/
theorem Flags.condLt_iff (f : Flags) : f.condLt = true ↔ f.z = false ∧ f.s = true := by
  simp [Flags.condLt]

/-- JGT's condition (R105). -/
theorem Flags.condGt_iff (f : Flags) : f.condGt = true ↔ f.z = false ∧ f.s = false := by
  simp [Flags.condGt]

/-- The jump's offset is its immediate, unsigned (R63, R101). -/
theorem toNat_jumpOffset (imm9 : BitVec 9) : (jumpOffset imm9).toNat = imm9.toNat :=
  BitVec.toNat_setWidth_of_le (by decide)

/-- An instruction whose meaning is `jumpIf` under `p` changes `pc` only, and that only under `p`. -/
theorem exec_jumpIf {i : Instr} {s : State} {p : Bool} {imm9 : BitVec 9}
    (h : exec i s = .next (s.jumpIf p (jumpOffset imm9))) {taken : Prop} (hp : taken ↔ p = true) :
    ∃ t, exec i s = .next t ∧ (taken → t.pc.toNat = (s.pc.toNat + imm9.toNat) % 65536) ∧ (¬ taken → t.pc = s.pc) ∧
      keepsRegs s t ∧ t.flags = s.flags ∧ t.sp = s.sp ∧ keepsMemory s t ∧ keepsEngine s t ∧ isQuiet s t := by
  refine ⟨_, h, fun ht => ?_, fun ht => ?_, State.reg_congr _ _ (s.jumpIf_x ..), s.jumpIf_flags .., s.jumpIf_sp ..,
    State.readByte_congr _ _ (s.jumpIf_mem ..), by simp [keepsEngine], by simp [isQuiet]⟩
  · rw [State.jumpIf_pc, if_pos (hp.1 ht), BitVec.toNat_add, toNat_jumpOffset]
  · rw [State.jumpIf_pc, if_neg (fun h => ht (hp.2 h))]

/-- Settles O35, a jump at a time, each by `exec_jumpIf` under its own condition. -/
theorem jumpsAddWhenConditionHolds : Obligations.JumpsAddWhenConditionHolds := by
  refine ⟨fun _ _ => ⟨decode_jmp_of_row, decode_jeq_of_row, decode_jlt_of_row, decode_jgt_of_row⟩, ?_⟩
  rintro s imm9 i taken (⟨rfl, htaken⟩ | ⟨rfl, htaken⟩ | ⟨rfl, htaken⟩ | ⟨rfl, htaken⟩)
  · exact exec_jumpIf rfl (htaken.trans (iff_of_true trivial rfl))
  · exact exec_jumpIf rfl (htaken.trans s.flags.condEq_iff.symm)
  · exact exec_jumpIf rfl (htaken.trans s.flags.condLt_iff.symm)
  · exact exec_jumpIf rfl (htaken.trans s.flags.condGt_iff.symm)

/-! ## PSH and POP (R106, R107) -/

/-- Above the floor a push stores and lowers `sp`. -/
theorem State.push_of_room {s : State} (h : s.cfg.floor < (s.sp.toNat : Int)) (v : Word) :
    s.push v = { s.writeWord s.sp v with sp := s.sp - 2 } := by
  obtain ⟨-, hpush⟩ | ⟨hfull, -⟩ := s.push_cases v
  · exact hpush
  · exact absurd h hfull

/-- On a full stack a push only says that it was dropped. -/
theorem State.push_of_full {s : State} (h : (s.sp.toNat : Int) ≤ s.cfg.floor) (v : Word) :
    s.push v = s.emit (.diag .pushDropped) := by
  obtain ⟨hroom, -⟩ | ⟨-, hpush⟩ := s.push_cases v
  · exact absurd h (Int.not_le.2 hroom)
  · exact hpush

/-- Between the floor and `STACK_START` a pop raises `sp` and loads. -/
theorem State.pop_of_room {s : State} (h : s.cfg.floor ≤ (s.sp.toNat : Int) ∧ s.sp.toNat < s.cfg.stackStart.toNat)
    (d : Reg) : s.pop d = { s with sp := s.sp + 2, x := s.x.set d (s.readWord (s.sp + 2)) } := by
  obtain ⟨-, -, hpop⟩ | ⟨hempty, -⟩ := s.pop_cases d
  · exact hpop
  · exact absurd h hempty

/-- On an empty stack a pop only says so. -/
theorem State.pop_of_empty {s : State}
    (h : ¬ (s.cfg.floor ≤ (s.sp.toNat : Int) ∧ s.sp.toNat < s.cfg.stackStart.toNat)) (d : Reg) :
    s.pop d = s.emit (.diag .popEmpty) := by
  obtain ⟨hlow, hhigh, -⟩ | ⟨-, hpop⟩ := s.pop_cases d
  · exact absurd ⟨hlow, hhigh⟩ h
  · exact hpop

/-- The register a pop loads reads as the word at the raised `sp`. -/
theorem State.reg_pop_of_room {s : State}
    (h : s.cfg.floor ≤ (s.sp.toNat : Int) ∧ s.sp.toNat < s.cfg.stackStart.toNat) (d : Reg) :
    (s.pop d).reg d = s.readWord (s.sp + 2) := by
  rw [State.reg_congr (s.setReg d (s.readWord (s.sp + 2))) _ (by rw [State.pop_of_room h]; rfl), State.reg_setReg,
    if_pos rfl]

/-- Settles O36, by the two cases of a push; the store's bytes are those of any word write. -/
theorem pushStoresThenDecrements : Obligations.PushStoresThenDecrements := by
  refine ⟨fun _ _ => decode_psh_of_row, fun s n hm => ?_⟩
  have h : exec (.psh n) s = .next (s.push (s.reg n)) := rfl
  refine ⟨_, h, exec_keepsRegs h rfl, exec_flags h rfl rfl rfl, programCounterOnlyByJumps _ _ _ h rfl,
    exec_keepsEngine h rfl, exec_draws h, fun hroom => ?_, fun hfull => ?_⟩
  · rw [State.push_of_room hroom]
    obtain ⟨hlow, hhigh, hkept⟩ := wordWriteChangesTwoBytes s s.sp (s.reg n) hm
    exact ⟨hlow, hhigh, hkept, rfl, rfl⟩
  · rw [State.push_of_full hfull]
    exact ⟨fun _ => rfl, rfl, rfl⟩

/-- Settles O37, by the two cases of a pop. -/
theorem popIncrementsThenLoads : Obligations.PopIncrementsThenLoads := by
  refine ⟨fun _ _ => decode_pop_of_row, fun _ => rfl, fun s d => ?_⟩
  have h : exec (.pop d) s = .next (s.pop (popDest d)) := rfl
  refine ⟨_, h, exec_keepsRegsBut h rfl, exec_flags h rfl rfl rfl, programCounterOnlyByJumps _ _ _ h rfl,
    exec_keepsMemory h rfl, exec_keepsEngine h rfl, exec_draws h, fun hroom => ?_, fun hempty => ?_⟩
  · rw [State.reg_pop_of_room hroom, State.pop_of_room hroom]
    exact ⟨rfl, rfl, toNat_wordOfBytes _ _⟩
  · rw [State.pop_of_empty hempty]
    exact ⟨rfl, rfl, rfl⟩

/-! ## The words on the stack -/

/-- Memory holds the words `vs` of a stack that began at `base`, the last one pushed first: the first one pushed stands
at `base`, each later one 2 further down (R48, R106). -/
def State.holdsBelow (s : State) (base : Word) (vs : List Word) : Prop :=
  match vs with
  | [] => True
  | v :: rest => s.readWord (base - BitVec.ofNat 16 (2 * rest.length)) = v ∧ s.holdsBelow base rest

/-- A state whose stack, begun at `base` within its region, holds the words `vs`, the last one pushed first. -/
structure State.StackIs (base : Word) (vs : List Word) (s : State) : Prop where
  mem : Memory.wf s.mem = true
  cfg : s.cfg.wf = true
  base_le : base.toNat ≤ s.cfg.stackStart.toNat
  floor_le : s.cfg.floor ≤ (s.sp.toNat : Int)
  depth : s.sp.toNat + 2 * vs.length = base.toNat
  words : s.holdsBelow base vs

/-- The words below `base` are a matter of memory only. -/
theorem State.holdsBelow_congr {s t : State} (h : t.mem = s.mem) {base : Word} {vs : List Word}
    (hs : s.holdsBelow base vs) : t.holdsBelow base vs := by
  induction vs with
  | nil => trivial
  | cons v rest ih =>
    obtain ⟨hv, hrest⟩ := hs
    exact ⟨(State.readWord_congr s t h _).trans hv, ih hrest⟩

/-- A word write at `a` keeps the word at `b`, when neither word overlaps the other. -/
theorem State.readWord_writeWord_of_disjoint {s : State} (hm : Memory.wf s.mem = true) {a b : Word} (v : Word)
    (hne : b ≠ a) (hnext : b ≠ a + 1) (hprev : b + 1 ≠ a) : (s.writeWord a v).readWord b = s.readWord b := by
  have hkept := State.keepsMemoryBut_writeWord hm a v
  have hsucc : b + 1 ≠ a + 1 := fun h => hne (BitVec.add_left_inj _ |>.1 h)
  rw [State.readWord, State.readWord, hkept b hne hnext, hkept (b + 1) hprev hsucc]

/-- A word write under the words below `base` keeps them; `base` is below 0xFFFF, so that none of them wraps. -/
theorem State.holdsBelow_writeWord {s : State} (hm : Memory.wf s.mem = true) {a base : Word} (v : Word)
    {vs : List Word} (hbase : base.toNat ≤ 0xFFFE) (ha : a.toNat + 2 * vs.length ≤ base.toNat)
    (hs : s.holdsBelow base vs) : (s.writeWord a v).holdsBelow base vs := by
  induction vs with
  | nil => trivial
  | cons w rest ih =>
    obtain ⟨hw, hrest⟩ := hs
    rw [List.length_cons] at ha
    refine ⟨?_, ih (by omega) hrest⟩
    rw [State.readWord_writeWord_of_disjoint hm v, hw]
    all_goals bv_omega

/-- `sp` is where `State.holdsBelow` has the next word pushed. -/
theorem State.StackIs.sp_eq {s : State} {base : Word} {vs : List Word} (h : s.StackIs base vs) :
    s.sp = base - BitVec.ofNat 16 (2 * vs.length) := by
  have hdepth := h.depth
  bv_omega

/-- A push with room puts its word on the stack. -/
theorem State.StackIs.push {s : State} {base : Word} {vs : List Word} (h : s.StackIs base vs)
    (hroom : s.cfg.floor + 2 ≤ (s.sp.toNat : Int)) (v : Word) : (s.push v).StackIs base (v :: vs) := by
  obtain ⟨-, hle, hmax⟩ := stack_of_cfg_wf h.cfg
  have hbase := h.base_le
  have hdepth := h.depth
  have hpush := State.push_of_room (s := s) (by omega) v
  have hmem : (s.push v).mem = (s.writeWord s.sp v).mem := by rw [hpush]
  have hsp : (s.push v).sp.toNat + 2 = s.sp.toNat := by
    rw [hpush]
    simp only [Config.floor] at hroom
    bv_omega
  have htop : (s.push v).readWord s.sp = v :=
    (State.readWord_congr _ _ hmem s.sp).trans (s.readWord_writeWord h.mem s.sp v)
  exact {
    mem := s.wf_push h.mem v
    cfg := by rw [State.push_cfg, h.cfg]
    base_le := by rwa [State.push_cfg]
    floor_le := by rw [State.push_cfg]; omega
    depth := by rw [List.length_cons]; omega
    words := ⟨h.sp_eq ▸ htop,
      State.holdsBelow_congr hmem (State.holdsBelow_writeWord h.mem v (by omega) (by omega) h.words)⟩ }

/-- A pop takes the last word off the stack, into its register. -/
theorem State.StackIs.pop {s : State} {base v : Word} {vs : List Word} (h : s.StackIs base (v :: vs)) (d : Reg) :
    (s.pop d).reg d = v ∧ (s.pop d).StackIs base vs := by
  obtain ⟨-, -, hmax⟩ := stack_of_cfg_wf h.cfg
  have hlow := h.floor_le
  have hbase := h.base_le
  have hdepth := h.depth
  obtain ⟨hv, hvs⟩ := h.words
  rw [List.length_cons] at hdepth
  have hroom : s.cfg.floor ≤ (s.sp.toNat : Int) ∧ s.sp.toNat < s.cfg.stackStart.toNat := ⟨hlow, by omega⟩
  have haddr : s.sp + 2 = base - BitVec.ofNat 16 (2 * vs.length) := by bv_omega
  have hsp : (s.pop d).sp.toNat = s.sp.toNat + 2 := by
    rw [State.pop_of_room hroom]
    bv_omega
  have hreg : (s.pop d).reg d = v := by rw [State.reg_pop_of_room hroom, haddr, hv]
  exact ⟨hreg, {
    mem := by rw [State.pop_mem, h.mem]
    cfg := by rw [State.pop_cfg, h.cfg]
    base_le := by rwa [State.pop_cfg]
    floor_le := by rw [State.pop_cfg]; omega
    depth := by omega
    words := State.holdsBelow_congr (s.pop_mem d) hvs }⟩

/-- A stack with no word on it yet begins at `sp`. -/
theorem State.stackIs_nil {s : State} (hm : Memory.wf s.mem = true) (hwf : s.cfg.wf = true)
    (hlow : s.cfg.floor ≤ (s.sp.toNat : Int)) (hhigh : s.sp.toNat ≤ s.cfg.stackStart.toNat) : s.StackIs s.sp [] where
  mem := hm
  cfg := hwf
  base_le := hhigh
  floor_le := hlow
  depth := rfl
  words := trivial

/-- With no word left on the stack `sp` is back at its beginning. -/
theorem State.StackIs.sp_eq_base {s : State} {base : Word} (h : s.StackIs base []) : s.sp = base :=
  BitVec.eq_of_toNat_eq h.depth

/-! ## Runs of pushes and of pops (R106, R109, R110) -/

/-- A run takes its first instruction's meaning first. -/
theorem execAll_cons {i : Instr} {s t : State} (h : exec i s = .next t) (is : List Instr) :
    execAll (i :: is) s = execAll is t := by
  rw [execAll, h]

/-- Settles O56: the push puts the word on an empty stack, and the pop takes it off. -/
theorem pushPopRoundTrip : Obligations.PushPopRoundTrip := by
  intro s n d hm hwf hlow hhigh
  have hpush := (State.stackIs_nil hm hwf (by omega) hhigh).push hlow (s.reg n)
  obtain ⟨hreg, hpop⟩ := hpush.pop (popDest d)
  have hpsh : exec (.psh n) s = .next (s.push (s.reg n)) := rfl
  have hpopd : exec (.pop d) (s.push (s.reg n)) = .next ((s.push (s.reg n)).pop (popDest d)) := rfl
  refine ⟨_, (execAll_cons hpsh _).trans (execAll_cons hpopd []), hreg, hpop.sp_eq_base, fun e he => ?_⟩
  rw [exec_keepsRegsBut hpopd rfl e he, exec_keepsRegs hpsh rfl e]

/-- Pushes that all have room put their words on the stack, the last one on top. -/
theorem State.StackIs.execAll_psh {base : Word} (ns : List Reg) : ∀ {vs : List Word} {s : State}, s.StackIs base vs →
    s.cfg.floor + 2 * (ns.length : Int) ≤ (s.sp.toNat : Int) →
    ∃ t, execAll (ns.map Instr.psh) s = .next t ∧ t.StackIs base (ns.reverse.map s.reg ++ vs) := by
  induction ns with
  | nil => exact fun h _ => ⟨_, rfl, h⟩
  | cons n ns ih =>
    intro vs s h hlow
    rw [List.length_cons] at hlow
    have hpsh : exec (.psh n) s = .next (s.push (s.reg n)) := rfl
    have hregs : (s.push (s.reg n)).reg = s.reg := funext (exec_keepsRegs hpsh rfl)
    have hpush := h.push (by omega) (s.reg n)
    have hdepth := h.depth
    have hdepthPush := hpush.depth
    rw [List.length_cons] at hdepthPush
    obtain ⟨t, ht, hstack⟩ := ih hpush (by rw [State.push_cfg]; omega)
    refine ⟨t, (execAll_cons hpsh _).trans ht, ?_⟩
    simpa [hregs] using hstack

/-- Popping into R0 takes the words off the stack, the top one first. -/
theorem State.StackIs.popsGive {base : Word} (vs : List Word) : ∀ {s : State}, s.StackIs base vs →
    Machine.popsGive vs base s := by
  induction vs with
  | nil => exact fun h => h.sp_eq_base
  | cons v vs ih =>
    intro s h
    obtain ⟨hreg, hstack⟩ := h.pop (popDest 0)
    exact ⟨s.pop (popDest 0), rfl, hreg, ih hstack⟩

/-- Settles O57, by `State.StackIs.execAll_psh` from a stack that begins at `sp`, and `State.StackIs.popsGive`. -/
theorem stackIsLastInFirstOut : Obligations.StackIsLastInFirstOut := by
  intro s ns hm hwf hlow hhigh
  obtain ⟨t, ht, hstack⟩ := (State.stackIs_nil hm hwf (by omega) hhigh).execAll_psh ns hlow
  rw [List.append_nil] at hstack
  exact ⟨t, ht, hstack.popsGive⟩

/-- With room for `k` words between the floor and `sp`, the first `k` pushes lower `sp`, and the others are dropped and
reported. -/
theorem execAll_psh_of_room (ns : List Reg) : ∀ (k : Nat) (s : State), 0 ≤ s.cfg.floor →
    s.cfg.floor + 2 * (k : Int) = (s.sp.toNat : Int) →
    ∃ t, execAll (ns.map Instr.psh) s = .next t ∧ t.sp.toNat = s.sp.toNat - 2 * min ns.length k ∧
      t.events = s.events ++ List.replicate (ns.length - k) (.diag .pushDropped) := by
  induction ns with
  | nil => exact fun k s _ _ => ⟨s, rfl, by simp, by simp⟩
  | cons n ns ih =>
    intro k s hfloor hroom
    have hpsh : exec (.psh n) s = .next (s.push (s.reg n)) := rfl
    cases k with
    | zero =>
      rw [State.push_of_full (by omega)] at hpsh
      obtain ⟨t, ht, hsp, hevents⟩ := ih 0 (s.emit (.diag .pushDropped)) hfloor hroom
      refine ⟨t, (execAll_cons hpsh _).trans ht, by simpa using hsp, ?_⟩
      simpa [List.replicate_succ] using hevents
    | succ k =>
      rw [State.push_of_room (by omega)] at hpsh
      have hsp' : (s.sp - 2).toNat = s.sp.toNat - 2 := by bv_omega
      obtain ⟨t, ht, hsp, hevents⟩ := ih k { s.writeWord s.sp (s.reg n) with sp := s.sp - 2 } hfloor
        (by show s.cfg.floor + _ = ((s.sp - 2).toNat : Int); omega)
      refine ⟨t, (execAll_cons hpsh _).trans ht, ?_, ?_⟩
      · rw [hsp, hsp', List.length_cons]
        omega
      · rw [hevents, List.length_cons, Nat.add_sub_add_right]
        rfl

/-- Settles O58: from `STACK_START`, the room down to the floor is `STACK_SIZE / 2` words. -/
theorem stackHoldsHalfItsSize : Obligations.StackHoldsHalfItsSize := by
  intro s ns hwf hsp
  obtain ⟨heven, hle, -⟩ := stack_of_cfg_wf hwf
  have hfloor : s.cfg.floor = (s.cfg.stackStart.toNat : Int) - (s.cfg.stackSize : Int) := rfl
  rw [← hsp] at hfloor hle ⊢
  exact execAll_psh_of_room ns (s.cfg.stackSize / 2) s (by omega) (by omega)

end Sys2Proof.Machine
end

section
/-! PROOF of O41, O42, O43, O44, O45, O59 (family 42_data_movement.md). What MOV, STR and LDR write and keep
(spec/42_data_movement.md R120-R124), and that LDR loads what STR stored (section 3, R125). -/

namespace Sys2Proof.Machine

/-! ## A register write as a frame (R14, R22) -/

section

variable (s : State) (d : Reg) (v : Word)

/-- The written register reads as the value. -/
theorem State.reg_setReg_same : (s.setReg d v).reg d = v := by
  rw [State.reg_setReg, if_pos rfl]

/-- The other registers read as before. -/
theorem State.keepsRegsBut_setReg : keepsRegsBut d s (s.setReg d v) := fun e he => by
  rw [State.reg_setReg, if_neg he]

/-- The write reaches no other part of the state. -/
theorem State.keepsBesidesRegsFlags_setReg : keepsBesidesRegsFlags s (s.setReg d v) := by
  have hmem : keepsMemory s (s.setReg d v) := State.readByte_congr _ _ (s.setReg_mem d v)
  simp [keepsBesidesRegsFlags, keepsEngine, isQuiet, hmem]

end

/-! ## MOV and LDR: one register write (R120, R121, R124) -/

/-- MOV's and STR's immediate is zero-extended (R63). -/
theorem toNat_immWord (imm8 : BitVec 8) : (immWord imm8).toNat = imm8.toNat :=
  BitVec.toNat_setWidth_of_le (by decide)

/-- Settles O41: the register write is of the other register's value. -/
theorem movCopiesRegister : Obligations.MovCopiesRegister :=
  ⟨fun _ _ => decode_movReg_of_row, fun s d m => ⟨s.setReg d (s.reg m), rfl, s.reg_setReg_same d _,
    s.keepsRegsBut_setReg d _, s.setReg_flags d _, s.keepsBesidesRegsFlags_setReg d _⟩⟩

/-- Settles O42: the register write is of the immediate, which `toNat_immWord` reads as a number. -/
theorem movLoadsImmediate : Obligations.MovLoadsImmediate := by
  refine ⟨fun _ _ => decode_movImm_of_row, fun s d imm8 => ⟨s.setReg d (immWord imm8), rfl, ?_,
    s.keepsRegsBut_setReg d _, s.setReg_flags d _, s.keepsBesidesRegsFlags_setReg d _⟩⟩
  rw [State.reg_setReg_same, toNat_immWord]

/-- LDR writes its destination with the word that stands at the base before the write (R88, R124). -/
theorem exec_ldr (s : State) (d m : Reg) : exec (.ldr d m) s = .next (s.setReg d (s.readWord (s.reg m))) := rfl

/-- Settles O45: the register write is of a word read, which `toNat_wordOfBytes` weighs. -/
theorem ldrLoadsWord : Obligations.LdrLoadsWord := by
  refine ⟨fun _ _ => decode_ldr_of_row, fun s d m => ⟨_, exec_ldr s d m, ?_, s.keepsRegsBut_setReg d _,
    s.setReg_flags d _, s.keepsBesidesRegsFlags_setReg d _⟩⟩
  rw [State.reg_setReg_same, State.readWord, toNat_wordOfBytes]

/-! ## STR: one word write (R122, R123) -/

/-- A word write reaches no part of the state but memory. -/
theorem State.writeWord_frame (s : State) (a v : Word) :
    keepsRegs s (s.writeWord a v) ∧ (s.writeWord a v).flags = s.flags ∧ (s.writeWord a v).pc = s.pc ∧
      (s.writeWord a v).sp = s.sp ∧ keepsEngine s (s.writeWord a v) ∧ isQuiet s (s.writeWord a v) := by
  have hregs : keepsRegs s (s.writeWord a v) := State.reg_congr _ _ (s.writeWord_x a v)
  simp [keepsEngine, isQuiet, hregs]

/-- STR stores the register's word at the base (R122). -/
theorem exec_strReg (s : State) (m n : Reg) : exec (.strReg m n) s = .next (s.writeWord (s.reg m) (s.reg n)) := rfl

/-- Settles O43: the two bytes by `wordWriteChangesTwoBytes`, all else by `State.writeWord_frame`. -/
theorem strStoresRegister : Obligations.StrStoresRegister := by
  refine ⟨fun _ _ => decode_strReg_of_row, fun s m n hm => ?_⟩
  obtain ⟨hlow, hhigh, hkept⟩ := wordWriteChangesTwoBytes s (s.memAddr m) (s.reg n) hm
  exact ⟨_, exec_strReg s m n, rfl, hlow, hhigh, hkept, s.writeWord_frame _ _⟩

/-- The low byte of an immediate's word is the immediate (R123). -/
theorem lowByte_immWord (imm8 : BitVec 8) : lowByte (immWord imm8) = imm8 := by
  apply BitVec.eq_of_toNat_eq
  rw [toNat_lowByte, toNat_immWord, Nat.mod_eq_of_lt imm8.isLt]

/-- The high byte of an immediate's word is 0 (R123). -/
theorem highByte_immWord (imm8 : BitVec 8) : highByte (immWord imm8) = 0 := by
  apply BitVec.eq_of_toNat_eq
  rw [toNat_highByte, toNat_immWord, Nat.div_eq_of_lt imm8.isLt]
  rfl

/-- STR's immediate weighs its upper part `w[10:8]` by 32 (R63). -/
theorem toNat_fieldStrImm (w : Word) : (fieldStrImm w).toNat = w.toNat / 256 % 8 * 32 + w.toNat % 32 := by
  rw [fieldStrImm, BitVec.toNat_append, ← Nat.shiftLeft_add_eq_or_of_lt (w.extractLsb' 0 5).isLt, Nat.shiftLeft_eq]
  simp [Nat.shiftRight_eq_div_pow]

/-- Settles O44: the two bytes of the immediate's word, and `State.writeWord_frame`. -/
theorem strStoresImmediate : Obligations.StrStoresImmediate := by
  refine ⟨fun _ _ => decode_strImm_of_row, toNat_fieldStrImm, fun s m imm8 hm => ?_⟩
  refine ⟨s.writeWord (s.memAddr m) (immWord imm8), rfl, rfl, ?_, ?_, State.keepsMemoryBut_writeWord hm _ _,
    s.writeWord_frame _ _⟩
  · rw [State.readByte_writeWord_low hm, lowByte_immWord]
  · rw [State.readByte_writeWord_high hm, highByte_immWord]

/-! ## A store and a later load (R125) -/

/-- States that agree on the two bytes at an address agree on the word there. -/
theorem State.readWord_eq_of_bytes {t u : State} {a : Word} (hlow : u.readByte a = t.readByte a)
    (hhigh : u.readByte (a + 1) = t.readByte (a + 1)) : u.readWord a = t.readWord a := by
  rw [State.readWord, State.readWord, hlow, hhigh]

/-- Settles O59: the later state still holds the stored word, and the word read is the word written. -/
theorem storeThenLoad : Obligations.StoreThenLoad := by
  refine fun s m n hm => ⟨_, exec_strReg s m n, fun u d k hbase hlow hhigh => ⟨_, exec_ldr u d k, ?_⟩⟩
  calc (u.setReg d (u.readWord (u.reg k))).reg d = u.readWord (s.reg m) := by rw [State.reg_setReg_same, hbase]
    _ = (s.writeWord (s.reg m) (s.reg n)).readWord (s.reg m) := State.readWord_eq_of_bytes hlow hhigh
    _ = s.reg n := State.readWord_writeWord s hm _ _

end Sys2Proof.Machine
end

section
/-! PROOF of O46, O47, O48, O49, O50 (family 43_arithmetic.md). What ADD, SUB and MUL write and keep
(spec/43_arithmetic.md R135-R138), that SUB undoes ADD (R139), and what C and Ov say after ADD and SUB (R140). -/

namespace Sys2Proof.Machine

/-! ## A write of a result and its flags as a frame (R88) -/

section

variable (s : State) (d : Reg) (r : Word) (f : Flags)

/-- The written register reads as the result. -/
theorem State.reg_writeResult_same : (s.writeResult d r f).reg d = r := by
  rw [State.reg_writeResult, if_pos rfl]

/-- The other registers read as before. -/
theorem State.keepsRegsBut_writeResult : keepsRegsBut d s (s.writeResult d r f) := fun e he => by
  rw [State.reg_writeResult, if_neg he]

/-- The write reaches no part of the state but registers and flags. -/
theorem State.keepsBesidesRegsFlags_writeResult : keepsBesidesRegsFlags s (s.writeResult d r f) := by
  have hmem : keepsMemory s (s.writeResult d r f) := State.readByte_congr _ _ (s.writeResult_mem d r f)
  simp [keepsBesidesRegsFlags, keepsEngine, isQuiet, hmem]

end

/-! ## The flags' formulas as statements about numbers and bits (R29, R135-R137) -/

section

variable (a b r : Word)

/-- Z says that the result is the number 0. -/
theorem zeroFlag_iff : zeroFlag r = true ↔ r.toNat = 0 := decide_eq_true_iff.trans BitVec.toNat_eq

/-- S is the result's bit 15. -/
theorem signFlag_eq_getLsbD : signFlag r = r.getLsbD 15 := BitVec.msb_eq_getLsbD_last r

/-- ADD's and MUL's C (R135, R137). -/
theorem addCarry_iff : addCarry a b = true ↔ a.toNat > 0xFFFF - b.toNat := decide_eq_true_iff

/-- SUB's C (R136). -/
theorem subBorrow_iff : subBorrow a b = true ↔ a.toNat < b.toNat := decide_eq_true_iff

/-- ADD's Ov (R135). -/
theorem addOverflow_iff : addOverflow a b r = true ↔
    a.getLsbD 15 = b.getLsbD 15 ∧ r.getLsbD 15 ≠ a.getLsbD 15 := by
  simp [addOverflow, BitVec.msb_eq_getLsbD_last]

/-- SUB's Ov (R136). -/
theorem subOverflow_iff : subOverflow a b r = true ↔
    a.getLsbD 15 ≠ b.getLsbD 15 ∧ r.getLsbD 15 ≠ a.getLsbD 15 := by
  simp [subOverflow, BitVec.msb_eq_getLsbD_last]

/-- MUL's Ov (R137). -/
theorem mulOverflow_iff : mulOverflow a b r = true ↔
    a.getLsbD 15 = b.getLsbD 15 ∧ b.getLsbD 15 ≠ r.getLsbD 15 := by
  simp [mulOverflow, BitVec.msb_eq_getLsbD_last]

end

/-! ## ADD, SUB and MUL (R135-R137) -/

section

variable (s : State) (d m n : Reg)

/-- ADD writes the sum of the operands and its flags, both from the old registers. -/
theorem exec_add : exec (.add d m n) s = .next (s.writeResult d (s.reg m + s.reg n)
    (addFlags (s.reg m) (s.reg n) (s.reg m + s.reg n))) := rfl

/-- SUB writes the difference of the operands and its flags, both from the old registers. -/
theorem exec_sub : exec (.sub d m n) s = .next (s.writeResult d (s.reg m - s.reg n)
    (subFlags (s.reg m) (s.reg n) (s.reg m - s.reg n))) := rfl

/-- MUL writes the product of the operands and its flags, both from the old registers. -/
theorem exec_mul : exec (.mul d m n) s = .next (s.writeResult d (s.reg m * s.reg n)
    (mulFlags (s.reg m) (s.reg n) (s.reg m * s.reg n))) := rfl

end

/-- A difference of words, as the difference of the numbers modulo 2^16 (R136). -/
theorem toNat_sub_eq_emod (a b : Word) : ((a - b).toNat : Int) = ((a.toNat : Int) - (b.toNat : Int)) % 65536 := by
  rw [BitVec.toNat_sub]
  omega

/-- Settles O46: the one write of ADD's result, and each flag by its formula. -/
theorem addResultAndFlags : Obligations.AddResultAndFlags := by
  refine ⟨fun _ _ => decode_of_opAt, fun s d m n => ⟨_, exec_add s d m n, ?_⟩⟩
  rw [State.reg_writeResult_same]
  exact ⟨BitVec.toNat_add _ _, addCarry_iff .., zeroFlag_iff _, signFlag_eq_getLsbD _, addOverflow_iff ..,
    s.keepsRegsBut_writeResult d _ _, s.keepsBesidesRegsFlags_writeResult d _ _⟩

/-- Settles O47: the one write of SUB's result, and each flag by its formula. -/
theorem subResultAndFlags : Obligations.SubResultAndFlags := by
  refine ⟨fun _ _ => decode_of_opAt, fun s d m n => ⟨_, exec_sub s d m n, ?_⟩⟩
  rw [State.reg_writeResult_same]
  exact ⟨toNat_sub_eq_emod _ _, subBorrow_iff .., zeroFlag_iff _, signFlag_eq_getLsbD _, subOverflow_iff ..,
    s.keepsRegsBut_writeResult d _ _, s.keepsBesidesRegsFlags_writeResult d _ _⟩

/-- Settles O48: the one write of MUL's result, and each flag by its formula. -/
theorem mulResultAndFlags : Obligations.MulResultAndFlags := by
  refine ⟨fun _ _ => decode_of_opAt, fun s d m n => ⟨_, exec_mul s d m n, ?_⟩⟩
  rw [State.reg_writeResult_same]
  exact ⟨BitVec.toNat_mul _ _, addCarry_iff .., zeroFlag_iff _, signFlag_eq_getLsbD _, mulOverflow_iff ..,
    s.keepsRegsBut_writeResult d _ _, s.keepsBesidesRegsFlags_writeResult d _ _⟩

/-! ## SUB undoes ADD (R139) -/

/-- Settles O49: SUB reads the sum in `d`, and in `n`, which ADD kept, the second operand again. -/
theorem addSubRoundTrip : Obligations.AddSubRoundTrip := by
  refine ⟨fun a b _ _ => by omega, fun s d e m n hdn => ?_⟩
  rw [execAll_cons (exec_add s d m n), execAll_cons (exec_sub _ e d n)]
  refine ⟨_, rfl, ?_⟩
  rw [State.reg_writeResult_same, State.reg_writeResult_same, State.keepsRegsBut_writeResult s d _ _ n hdn.symm,
    BitVec.add_sub_cancel]

/-! ## What C and Ov say after ADD and SUB (R140) -/

section

variable (a b : Word)

/-- ADD's carry test is the sum's carry out of 16 bits. -/
theorem addCarry_iff_le_sum : addCarry a b = true ↔ 65536 ≤ a.toNat + b.toNat := by
  rw [addCarry_iff]
  have hb : b.toNat < 65536 := b.isLt
  omega

/-- ADD's Ov is signed overflow, as the library has it. -/
theorem addOverflow_eq_saddOverflow : addOverflow a b (a + b) = a.saddOverflow b := by
  rw [BitVec.saddOverflow_eq]
  rfl

/-- SUB's Ov is signed overflow, as the library has it: the two say the same of each choice of sign bits. -/
theorem subOverflow_eq_ssubOverflow : subOverflow a b (a - b) = a.ssubOverflow b := by
  rw [BitVec.ssubOverflow_eq, subOverflow]
  cases a.msb <;> cases b.msb <;> simp

/-- Signed overflow of a sum: it lies outside the range of 16 bits. -/
theorem addOverflow_iff_outside : addOverflow a b (a + b) = true ↔
    a.toInt + b.toInt < -32768 ∨ 32767 < a.toInt + b.toInt := by
  rw [addOverflow_eq_saddOverflow]
  simp only [BitVec.saddOverflow, Bool.or_eq_true, decide_eq_true_eq]
  omega

/-- Signed overflow of a difference: it lies outside the range of 16 bits. -/
theorem subOverflow_iff_outside : subOverflow a b (a - b) = true ↔
    a.toInt - b.toInt < -32768 ∨ 32767 < a.toInt - b.toInt := by
  rw [subOverflow_eq_ssubOverflow]
  simp only [BitVec.ssubOverflow, Bool.or_eq_true, decide_eq_true_eq]
  omega

end

/-- Settles O50, a flag at a time. -/
theorem addSubFlagsMeanOverflow : Obligations.AddSubFlagsMeanOverflow :=
  fun s d m n =>
    ⟨⟨_, exec_add s d m n, addCarry_iff_le_sum .., addOverflow_iff_outside ..⟩,
      ⟨_, exec_sub s d m n, subBorrow_iff .., subOverflow_iff_outside ..⟩⟩

end Sys2Proof.Machine
end

section
/-! PROOF of O51 (family 44_logic.md). What AND, ORR, XOR and NOT write and keep (spec/44_logic.md R150-R153). -/

namespace Sys2Proof.Machine

/-- NOT's exclusive or with 0xFFFF is the complement (R153). -/
theorem xor_FFFF_eq_not (a : Word) : a ^^^ 0xFFFF = ~~~a := BitVec.xor_allOnes

section

variable (s : State) (d m n : Reg)

/-- AND writes the conjunction of the old operands, with its Z and S (R150). -/
theorem exec_and : exec (.and d m n) s = .next (s.writeResult d (s.reg m &&& s.reg n)
    (s.flags.withZS (s.reg m &&& s.reg n))) := rfl

/-- ORR writes the disjunction of the old operands, with its Z and S (R151). -/
theorem exec_orr : exec (.orr d m n) s = .next (s.writeResult d (s.reg m ||| s.reg n)
    (s.flags.withZS (s.reg m ||| s.reg n))) := rfl

/-- XOR writes the exclusive or of the old operands, with its Z and S (R152). -/
theorem exec_xor : exec (.xor d m n) s = .next (s.writeResult d (s.reg m ^^^ s.reg n)
    (s.flags.withZS (s.reg m ^^^ s.reg n))) := rfl

/-- NOT writes the complement of the old operand, with its Z and S (R153). -/
theorem exec_not : exec (.not d m) s = .next (s.writeResult d (~~~s.reg m)
    (s.flags.withZS (~~~s.reg m))) := by
  rw [← xor_FFFF_eq_not]
  rfl

end

/-- Settles O51: each instruction writes one result, whose bits are its Boolean function's, and the flags and the frame
are those of that write. -/
theorem logicResultsAndFlags : Obligations.LogicResultsAndFlags := by
  refine ⟨fun _ _ => ⟨decode_of_opAt, decode_of_opAt, decode_of_opAt, decode_of_opAt⟩, fun s d m n i bit h => ?_⟩
  have hwrite : ∃ r : Word, exec i s = .next (s.writeResult d r (s.flags.withZS r)) ∧
      ∀ j, j < 16 → r.getLsbD j = bit ((s.reg m).getLsbD j) ((s.reg n).getLsbD j) := by
    obtain ⟨rfl, rfl⟩ | ⟨rfl, rfl⟩ | ⟨rfl, rfl⟩ | ⟨rfl, rfl⟩ := h
    · exact ⟨_, exec_and s d m n, fun _ _ => BitVec.getLsbD_and⟩
    · exact ⟨_, exec_orr s d m n, fun _ _ => BitVec.getLsbD_or⟩
    · exact ⟨_, exec_xor s d m n, fun _ _ => BitVec.getLsbD_xor⟩
    · exact ⟨_, exec_not s d m, fun j hj => by simp [hj]⟩
  obtain ⟨r, hexec, hbits⟩ := hwrite
  refine ⟨_, hexec, ?_⟩
  rw [State.reg_writeResult_same]
  exact ⟨hbits, zeroFlag_iff r, signFlag_eq_getLsbD r, Flags.withZS_c _ r, Flags.withZS_ov _ r,
    s.keepsRegsBut_writeResult d _ _, s.keepsBesidesRegsFlags_writeResult d _ _⟩

end Sys2Proof.Machine
end

section
/-! PROOF of O52, O53, O54, O55 (family 45_shift_rotate.md). What SHR, SHL, ROR and ROL write and keep
(spec/45_shift_rotate.md R160-R163), and how the rotations undo each other (section 2). -/

namespace Sys2Proof.Machine

/-! ## SHR and SHL (R160, R161) -/

section

variable (s : State) (d m : Reg)

/-- SHR's count is the field itself, unsigned (R63, R160). -/
theorem exec_shr (k : BitVec 5) : exec (.shr d m k) s = .next (s.shiftRight d m k.toNat) := rfl

/-- SHL's count is the field itself, unsigned (R63, R161). -/
theorem exec_shl (k : BitVec 5) : exec (.shl d m k) s = .next (s.shiftLeft d m k.toNat) := rfl

variable (k : Nat)

/-- SHR's register (R160). -/
theorem State.reg_shiftRight_same : (s.shiftRight d m k).reg d = s.reg m >>> k :=
  (State.reg_congr (s.setReg d _) _ (s.shiftRight_x d m k) d).trans (s.reg_setReg_same d _)

/-- SHL's register (R161). -/
theorem State.reg_shiftLeft_same : (s.shiftLeft d m k).reg d = s.reg m <<< k :=
  (State.reg_congr (s.setReg d _) _ (s.shiftLeft_x d m k) d).trans (s.reg_setReg_same d _)

/-- SHR's C: the last bit shifted out, or a draw where there is none (R160). -/
theorem State.shiftRight_c : (s.shiftRight d m k).flags.c =
    if k = 0 then Config.drawBit s.draws else (s.reg m).getLsbD (k - 1) := by
  cases k with
  | zero => simp [State.shiftRight_zero, Flags.withCZS]
  | succ k => simp [State.shiftRight_succ, Flags.withCZS]

/-- SHL's C: the last bit shifted out, which is bit 16 and so 0 for a count of 0, or the first draw (R161). -/
theorem State.shiftLeft_c : (s.shiftLeft d m k).flags.c =
    if 16 < k then Config.drawBit s.draws else (s.reg m).getLsbD (16 - k) := by
  by_cases hk : 16 < k
  · simp [State.shiftLeft_gt s d m k hk, hk]
  · simp [State.shiftLeft_le s d m k (Nat.le_of_not_lt hk), hk]

/-- SHL's Ov: the bit that C takes, or the second draw (R161). -/
theorem State.shiftLeft_ov : (s.shiftLeft d m k).flags.ov =
    if 16 < k then Config.drawBit (s.draws + 1) else (s.reg m).getLsbD (16 - k) := by
  by_cases hk : 16 < k
  · simp [State.shiftLeft_gt s d m k hk, hk]
  · simp [State.shiftLeft_le s d m k (Nat.le_of_not_lt hk), hk]

/-- SHR draws nothing and reports nothing once a bit is shifted out (R160). -/
theorem State.isQuiet_shiftRight (hk : k ≠ 0) : isQuiet s (s.shiftRight d m k) :=
  ⟨by rw [State.shiftRight_draws, if_neg hk], by rw [State.shiftRight_events, if_neg hk]⟩

/-- SHL draws nothing and reports nothing up to the width (R161). -/
theorem State.isQuiet_shiftLeft (hk : ¬ 16 < k) : isQuiet s (s.shiftLeft d m k) :=
  ⟨by rw [State.shiftLeft_draws, if_neg hk], by rw [State.shiftLeft_events, if_neg hk]⟩

end

/-- Settles O52: the result and its Z and S at once for all counts, C by the three ranges of the count. -/
theorem shrResultAndFlags : Obligations.ShrResultAndFlags := by
  refine ⟨fun _ _ => decode_of_opAt, fun s d m k => ⟨_, exec_shr s d m k, ?_⟩⟩
  rw [State.reg_shiftRight_same, State.shiftRight_c, State.shiftRight_z, State.shiftRight_s]
  refine ⟨?result, zeroFlag_iff _, signFlag_eq_getLsbD _, State.shiftRight_ov .., ?zero, ?inside, ?beyond,
    exec_keepsRegsBut (exec_shr s d m k) rfl, State.shiftRight_pc .., State.shiftRight_sp ..,
    State.readByte_congr _ _ (State.shiftRight_mem ..), exec_keepsEngine (exec_shr s d m k) rfl⟩
  case result => rw [BitVec.toNat_ushiftRight, Nat.shiftRight_eq_div_pow]
  case zero => exact fun hk => by simp [hk]
  case inside =>
    intro hk
    have hne : k.toNat ≠ 0 := by omega
    exact ⟨if_neg hne, s.isQuiet_shiftRight d m _ hne⟩
  case beyond =>
    intro hk
    have hne : k.toNat ≠ 0 := by omega
    exact ⟨(if_neg hne).trans (BitVec.getLsbD_of_ge _ _ (by omega)), s.isQuiet_shiftRight d m _ hne⟩

/-- Settles O53: the result and its Z and S at once for all counts, C and Ov by the three ranges of the count. -/
theorem shlResultAndFlags : Obligations.ShlResultAndFlags := by
  refine ⟨fun _ _ => decode_of_opAt, fun s d m k => ⟨_, exec_shl s d m k, ?_⟩⟩
  rw [State.reg_shiftLeft_same, State.shiftLeft_c, State.shiftLeft_ov, State.shiftLeft_z, State.shiftLeft_s]
  refine ⟨?result, zeroFlag_iff _, signFlag_eq_getLsbD _, ?zero, ?inside, ?beyond,
    exec_keepsRegsBut (exec_shl s d m k) rfl, State.shiftLeft_pc .., State.shiftLeft_sp ..,
    State.readByte_congr _ _ (State.shiftLeft_mem ..), exec_keepsEngine (exec_shl s d m k) rfl⟩
  case result => rw [BitVec.toNat_shiftLeft, Nat.shiftLeft_eq]
  case zero =>
    intro hk
    have hle : ¬ 16 < k.toNat := by omega
    have hbit : (s.reg m).getLsbD (16 - k.toNat) = false := BitVec.getLsbD_of_ge _ _ (by omega)
    exact ⟨(if_neg hle).trans hbit, (if_neg hle).trans hbit, s.isQuiet_shiftLeft d m _ hle⟩
  case inside =>
    intro hk
    have hle : ¬ 16 < k.toNat := by omega
    exact ⟨if_neg hle, if_neg hle, s.isQuiet_shiftLeft d m _ hle⟩
  case beyond =>
    intro hk
    have hlt : 16 < k.toNat := hk
    simp [hlt]

/-! ## ROR and ROL (R162, R163) -/

section

variable (s : State) (d m : Reg)

/-- ROR writes the rotated operand with its Z and S, and the bit rotated out into C (R162). -/
theorem exec_ror : exec (.ror d m) s = .next (s.writeResult d (rotateRight (s.reg m))
    (s.flags.withCZS ((s.reg m).getLsbD 0) (rotateRight (s.reg m)))) := rfl

/-- ROL writes the rotated operand with its Z and S, and the bit rotated out into C (R163). -/
theorem exec_rol : exec (.rol d m) s = .next (s.writeResult d (rotateLeft (s.reg m))
    (s.flags.withCZS ((s.reg m).getLsbD 15) (rotateLeft (s.reg m)))) := rfl

variable (a : Word)

/-- ROR as a number: the half of the word, and the bit rotated out on top of its 15 bits (R162). -/
theorem toNat_rotateRight : (rotateRight a).toNat = a.toNat / 2 + a.toNat % 2 * 32768 := by
  have hhalf : a.toNat / 2 < 2 ^ 15 := by omega
  have hlast : (a &&& 1).toNat = a.toNat % 2 := Nat.and_one_is_mod a.toNat
  have htop : ((a &&& 1) <<< 15).toNat = 2 ^ 15 * (a.toNat % 2) := by
    rw [BitVec.toNat_shiftLeft, hlast, Nat.shiftLeft_eq]
    omega
  rw [rotateRight, BitVec.toNat_or, htop, BitVec.toNat_ushiftRight, Nat.shiftRight_eq_div_pow, Nat.pow_one,
    Nat.or_comm, ← Nat.two_pow_add_eq_or_of_lt hhalf]
  omega

/-- ROL as a number: the double of the word modulo 2^16, and the bit rotated out below it (R163). -/
theorem toNat_rotateLeft : (rotateLeft a).toNat = a.toNat * 2 % 65536 + a.toNat / 32768 := by
  have htop : a.toNat / 2 ^ 15 < 2 ^ 1 := by omega
  have hdouble : (a <<< 1).toNat = 2 ^ 1 * (a.toNat % 32768) := by
    rw [BitVec.toNat_shiftLeft, Nat.shiftLeft_eq]
    omega
  rw [rotateLeft, BitVec.toNat_or, hdouble, BitVec.toNat_ushiftRight, Nat.shiftRight_eq_div_pow,
    ← Nat.two_pow_add_eq_or_of_lt htop]
  omega

/-- Bit 0 of a word, as the number that ROR's rule shifts out (R162). -/
theorem getLsbD_zero_iff : a.getLsbD 0 = true ↔ a.toNat % 2 = 1 := by
  rw [BitVec.getLsbD, Nat.testBit_zero, decide_eq_true_eq]

/-- Bit 15 of a word, as the number that ROL's rule shifts out (R163). -/
theorem getLsbD_fifteen_iff : a.getLsbD 15 = true ↔ a.toNat / 32768 = 1 := by
  rw [← signFlag_eq_getLsbD, signFlag, BitVec.msb_eq_decide, decide_eq_true_eq]
  omega

end

/-- Settles O54: each rotation writes one result, known as a number with its C, and the flags and the frame are those of
that write. -/
theorem rotateResultsAndFlags : Obligations.RotateResultsAndFlags := by
  refine ⟨fun _ _ => ⟨decode_of_opAt, decode_of_opAt⟩, fun s d m i r c h => ?_⟩
  have hwrite : ∃ (v : Word) (b : Bool), exec i s = .next (s.writeResult d v (s.flags.withCZS b v)) ∧
      v.toNat = r ∧ (b = true ↔ c = 1) := by
    obtain ⟨rfl, rfl, rfl⟩ | ⟨rfl, rfl, rfl⟩ := h
    · exact ⟨_, _, exec_ror s d m, toNat_rotateRight _, getLsbD_zero_iff _⟩
    · exact ⟨_, _, exec_rol s d m, toNat_rotateLeft _, getLsbD_fifteen_iff _⟩
  obtain ⟨v, b, hexec, hv, hc⟩ := hwrite
  refine ⟨_, hexec, ?_⟩
  rw [State.reg_writeResult_same]
  exact ⟨hv, hc, zeroFlag_iff v, signFlag_eq_getLsbD v, Flags.withCZS_ov _ b v,
    s.keepsRegsBut_writeResult d _ _, s.keepsBesidesRegsFlags_writeResult d _ _⟩

/-! ## Rotations that give the word back (section 2 of spec/45_shift_rotate.md) -/

/-- ROL brings the bit that ROR put on top back to the bottom, whichever bit it was. -/
theorem rotateLeft_rotateRight (a : Word) : rotateLeft (rotateRight a) = a := by
  refine BitVec.eq_of_toNat_eq ?_
  rw [toNat_rotateLeft, toNat_rotateRight]
  obtain hbit | hbit := Nat.mod_two_eq_zero_or_one a.toNat
  all_goals
    rw [hbit]
    omega

/-- ROR bit by bit: each bit comes from the place above it, the top one from the bottom (R162). -/
theorem getLsbD_rotateRight (a : Word) {i : Nat} (hi : i < 16) :
    (rotateRight a).getLsbD i = a.getLsbD ((i + 1) % 16) := by
  obtain hlow | rfl : i < 15 ∨ i = 15 := by omega
  · have hplace : (i + 1) % 16 = 1 + i := by omega
    simp [rotateRight, hlow, hplace]
  · simp [rotateRight]

/-- ROR again and again takes each bit from as many places above, around the end of the word. -/
theorem getLsbD_iterate_rotateRight (a : Word) (n : Nat) {i : Nat} (hi : i < 16) :
    (rotateRight^[n] a).getLsbD i = a.getLsbD ((i + n) % 16) := by
  induction n generalizing i with
  | zero => rw [Function.iterate_zero_apply, Nat.add_zero, Nat.mod_eq_of_lt hi]
  | succ n ih =>
    have hplace : ((i + 1) % 16 + n) % 16 = (i + (n + 1)) % 16 := by omega
    rw [Function.iterate_succ_apply', getLsbD_rotateRight _ hi, ih (Nat.mod_lt _ (by decide)), hplace]

/-- Sixteen places around the end of the word is each bit's own place. -/
theorem rotateRight_iterate_sixteen (a : Word) : rotateRight^[16] a = a :=
  BitVec.eq_of_getLsbD_eq fun i hi => by
    rw [getLsbD_iterate_rotateRight a 16 hi, Nat.add_mod_right, Nat.mod_eq_of_lt hi]

/-- A run of RORs on one register rotates its value as often. -/
theorem execAll_replicate_ror (n : Nat) (s : State) (d : Reg) :
    ∃ t, execAll (List.replicate n (.ror d d)) s = .next t ∧ t.reg d = rotateRight^[n] (s.reg d) := by
  induction n generalizing s with
  | zero => exact ⟨s, rfl, rfl⟩
  | succ n ih =>
    obtain ⟨t, hrun, hreg⟩ := ih (s.writeResult d (rotateRight (s.reg d)) _)
    rw [State.reg_writeResult_same] at hreg
    exact ⟨t, (execAll_cons (exec_ror s d d) _).trans hrun, hreg⟩

/-- Settles O55: the runs' values, by `rotateRight_iterate_sixteen` and `rotateLeft_rotateRight`. -/
theorem rotationsReturn : Obligations.RotationsReturn := by
  refine fun s d => ⟨?sixteen, ?undone⟩
  case sixteen =>
    obtain ⟨t, hrun, hreg⟩ := execAll_replicate_ror 16 s d
    exact ⟨t, hrun, hreg.trans (rotateRight_iterate_sixteen _)⟩
  case undone =>
    rw [execAll_cons (exec_ror s d d), execAll_cons (exec_rol _ d d)]
    refine ⟨_, rfl, ?_⟩
    rw [State.reg_writeResult_same, State.reg_writeResult_same, rotateLeft_rotateRight]

end Sys2Proof.Machine
end

section
/-! PROOF of O60 (family 60_exceptions.md). What the host's operations answer during a run and outside one
(spec/70_reset_and_hazards.md R206, R207), and which states a step leaves in a run: nothing outside the engine changes
its state there (spec/60_exceptions.md R183). -/

namespace Sys2Proof.Machine

/-! ## When a run is in progress (log entry 24) -/

/-- In HALTED no run is in progress (R206). -/
theorem State.inRun_of_halted {s : State} (hh : s.engineState = .halted) : s.inRun = false := by
  simp [State.inRun, hh]

/-- The reset that starts a run leaves one in progress (R200). -/
theorem State.runReset_inRun (s : State) : s.runReset.inRun = true :=
  s.runReset.inRun_iff.2 ⟨rfl, by simp⟩

/-- An instruction that is over belonged to a run, which only a stop ends: `State.entered` records that one has begun,
and no instruction's meaning forgets it. -/
theorem exec_finished_inRun_iff {i : Instr} {s u : State} (h : exec i (s.entered i) = .next u) :
    u.finished.inRun = true ↔ u.finished.engineState ≠ .halted := by
  have hbegun : u.finished.runBegun = true := by simp [exec_runBegun h]
  exact u.finished.inRun_iff.trans (and_iff_right hbegun)

/-- A step leaves a run in progress unless the engine has stopped (R81, R87). -/
theorem step_inRun_iff {s t : State} (h : step s = .next t) : t.inRun = true ↔ t.engineState ≠ .halted := by
  obtain ⟨-, ⟨-, rfl⟩ | ⟨-, u, hu, rfl⟩⟩ := step_cases h
  · simp [State.inRun]
  · exact exec_finished_inRun_iff hu

/-! ## What the host's operations answer (R206, R207, log entry 19) -/

/-- A load with pairs is turned away during a run. -/
theorem hostLoad_of_inRun {s : State} {pairs : List (Word × Word)} (hne : pairs ≠ []) (hrun : s.inRun = true) :
    hostLoad pairs s = .refused .runInProgress := by
  cases pairs with
  | nil => exact absurd rfl hne
  | cons p ps => exact if_pos hrun

/-- Outside a run a load with pairs writes them in order (R203). -/
theorem hostLoad_of_not_inRun {s : State} {pairs : List (Word × Word)} (hne : pairs ≠ []) (hrun : s.inRun = false) :
    hostLoad pairs s = .next (pairs.foldl State.loadPair s) := by
  cases pairs with
  | nil => exact absurd rfl hne
  | cons p ps => exact if_neg (ne_true_of_eq_false hrun)

/-- No `run()` begins during a run, whatever the configuration and the load. -/
theorem hostRun_ne_next_of_inRun {s : State} (hrun : s.inRun = true) (t : State) : hostRun s ≠ .next t := by
  intro h
  obtain ⟨-, -, hidle, -⟩ := hostRun_cases h
  exact Bool.false_ne_true (hidle.symm.trans hrun)

/-- With a well-formed configuration and a load, the refusal of a `run()` during a run names the run. -/
theorem hostRun_of_inRun {s : State} (hwf : s.cfg.wf = true) (hload : 2 ≤ s.imageEnd) (hrun : s.inRun = true) :
    hostRun s = .refused .runInProgress := by
  simp [hostRun, State.loaded, hwf, hload, hrun]

/-- There is no readout outside HALTED. -/
theorem hostReadout_of_not_halted {s : State} (hh : s.engineState ≠ .halted) :
    hostReadout s = .refused .readoutBeforeHalted :=
  if_neg hh

/-- Settles O60: the run's beginning and its steps by what they leave in progress, and each host operation by its
answer inside and outside a run. -/
theorem hostCannotDisturbRun : Obligations.HostCannotDisturbRun := by
  refine ⟨fun s t h => ?begins, fun s t h => step_inRun_iff h, fun s hrun => ?during, fun s hh => ?halted⟩
  case begins =>
    obtain ⟨-, -, -, rfl⟩ := hostRun_cases h
    exact s.runReset_inRun
  case during =>
    obtain ⟨-, hnot⟩ := s.inRun_iff.1 hrun
    exact ⟨fun _ hne => hostLoad_of_inRun hne hrun, hostRun_ne_next_of_inRun hrun,
      fun hwf hload => hostRun_of_inRun hwf hload hrun, hostReadout_of_not_halted hnot⟩
  case halted =>
    have hidle : s.inRun = false := State.inRun_of_halted hh
    exact ⟨fun _ hne => ⟨_, hostLoad_of_not_inRun hne hidle⟩,
      fun hwf hload => ⟨_, hostRun_eq_runReset hwf hload hidle⟩⟩

end Sys2Proof.Machine
end

section
/-! PROOF of O3, O6, O2, O4, O5 (family 70_reset_and_hazards.md). What a load writes and keeps, pair after pair
(spec/70_reset_and_hazards.md R203, R205), the invariant at the start of a run (R200, R201), and what the host's
operations refuse (R202, R204, R206). -/

namespace Sys2Proof.Machine

/-! ## One pair of a load (R203) -/

section

variable {s : State} (h : Memory.wf s.mem = true)

include h

/-- A loaded pair reads back. -/
theorem State.readWord_loadPair (p : Word × Word) : (s.loadPair p).readWord p.1 = p.2 := by
  rw [State.readWord_congr _ _ (s.loadPair_mem p), State.readWord_writeWord s h]

/-- A loaded pair keeps the words that its own does not overlap. -/
theorem State.readWord_loadPair_of_disjoint {p : Word × Word} {a : Word}
    (hp : p.1 ≠ a ∧ p.1 ≠ a + 1 ∧ p.1 + 1 ≠ a) : (s.loadPair p).readWord a = s.readWord a := by
  obtain ⟨hne, hnext, hprev⟩ := hp
  rw [State.readWord_congr _ _ (s.loadPair_mem p),
    State.readWord_writeWord_of_disjoint h _ hne.symm hprev.symm hnext.symm]

/-- A loaded pair keeps every byte but its two. -/
theorem State.readByte_loadPair_of_ne {p : Word × Word} {a : Word} (hp : a ≠ p.1 ∧ a ≠ p.1 + 1) :
    (s.loadPair p).readByte a = s.readByte a := by
  obtain ⟨hlow, hhigh⟩ := hp
  rw [State.readByte_congr _ _ (s.loadPair_mem p), State.keepsMemoryBut_writeWord h _ _ a hlow hhigh]

end

/-! ## The pairs of a load in order (R203, R205) -/

/-- The state after the pairs of a load, written one after another. -/
def State.loadPairs (s : State) (ps : List (Word × Word)) : State := ps.foldl State.loadPair s

/-- Outside a run a load with pairs leaves the state that `State.loadPairs` names. -/
theorem hostLoad_eq_loadPairs {s : State} {ps : List (Word × Word)} (hne : ps ≠ []) (hrun : s.inRun = false) :
    hostLoad ps s = .next (s.loadPairs ps) :=
  hostLoad_of_not_inRun hne hrun

@[simp] theorem State.loadPairs_nil (s : State) : s.loadPairs [] = s := rfl
@[simp] theorem State.loadPairs_cons (s : State) (p : Word × Word) (ps : List (Word × Word)) :
    s.loadPairs (p :: ps) = (s.loadPair p).loadPairs ps := rfl

/-- The pairs after one of them are written over what that one leaves. -/
theorem State.loadPairs_append_cons (s : State) (qs : List (Word × Word)) (q : Word × Word)
    (rs : List (Word × Word)) : s.loadPairs (qs ++ q :: rs) = ((s.loadPairs qs).loadPair q).loadPairs rs := by
  simp [State.loadPairs]

/-- What every pair keeps holds after the load, and memory is canonical all along. -/
theorem State.loadPairs_kept {P : State → Prop} {s : State} {ps : List (Word × Word)} (hm : Memory.wf s.mem = true)
    (hs : P s) (hpair : ∀ t, Memory.wf t.mem = true → P t → ∀ p ∈ ps, P (t.loadPair p)) :
    Memory.wf (s.loadPairs ps).mem = true ∧ P (s.loadPairs ps) :=
  List.foldlRecOn (motive := fun t : State => Memory.wf t.mem = true ∧ P t) ps State.loadPair ⟨hm, hs⟩
    fun t ⟨ht, hP⟩ p hp => ⟨t.wf_loadPair ht p, hpair t ht hP p hp⟩

/-- A load keeps the canonical form. -/
theorem State.wf_loadPairs {s : State} (hm : Memory.wf s.mem = true) (ps : List (Word × Word)) :
    Memory.wf (s.loadPairs ps).mem = true :=
  (State.loadPairs_kept (P := fun _ => True) hm trivial fun _ _ _ _ _ => trivial).1

/-- A word that no pair overlaps reads as before the load. -/
theorem State.readWord_loadPairs_of_disjoint {s : State} (hm : Memory.wf s.mem = true) {ps : List (Word × Word)}
    {a : Word} (hps : ∀ p ∈ ps, p.1 ≠ a ∧ p.1 ≠ a + 1 ∧ p.1 + 1 ≠ a) :
    (s.loadPairs ps).readWord a = s.readWord a :=
  (State.loadPairs_kept (P := fun t => t.readWord a = s.readWord a) hm rfl
    fun _ ht ha p hp => (State.readWord_loadPair_of_disjoint ht (hps p hp)).trans ha).2

/-- A byte that no pair covers reads as before the load (R205). -/
theorem State.readByte_loadPairs_of_ne {s : State} (hm : Memory.wf s.mem = true) {ps : List (Word × Word)} {a : Word}
    (hps : ∀ p ∈ ps, a ≠ p.1 ∧ a ≠ p.1 + 1) : (s.loadPairs ps).readByte a = s.readByte a :=
  (State.loadPairs_kept (P := fun t => t.readByte a = s.readByte a) hm rfl
    fun _ ht ha p hp => (State.readByte_loadPair_of_ne ht (hps p hp)).trans ha).2

/-- A pair that no later pair overlaps reads back after the load: it was written, and the later pairs keep it. -/
theorem State.readWord_loadPairs_of_last {s : State} (hm : Memory.wf s.mem = true) (qs : List (Word × Word))
    (q : Word × Word) {rs : List (Word × Word)} (hrs : ∀ r ∈ rs, r.1 ≠ q.1 ∧ r.1 ≠ q.1 + 1 ∧ r.1 + 1 ≠ q.1) :
    (s.loadPairs (qs ++ q :: rs)).readWord q.1 = q.2 := by
  have hbefore : Memory.wf (s.loadPairs qs).mem = true := State.wf_loadPairs hm qs
  calc (s.loadPairs (qs ++ q :: rs)).readWord q.1
      = (((s.loadPairs qs).loadPair q).loadPairs rs).readWord q.1 := by rw [State.loadPairs_append_cons]
    _ = ((s.loadPairs qs).loadPair q).readWord q.1 :=
        State.readWord_loadPairs_of_disjoint (State.wf_loadPair _ hbefore q) hrs
    _ = q.2 := State.readWord_loadPair hbefore q

/-- `IMAGE_END` comes from the last pair (R203). -/
theorem State.loadPairs_concat_imageEnd (s : State) (ps : List (Word × Word)) (p : Word × Word) :
    (s.loadPairs (ps ++ [p])).imageEnd = p.1.toNat + 2 := by
  rw [State.loadPairs_append_cons]
  rfl

/-- Everything but memory and `IMAGE_END`. -/
def keepsBesidesImage (s t : State) : Prop :=
  t.x = s.x ∧ t.pc = s.pc ∧ t.sp = s.sp ∧ t.flags = s.flags ∧ t.engineState = s.engineState ∧
    t.stopReason = s.stopReason ∧ t.runBegun = s.runBegun ∧ t.cfg = s.cfg ∧ isQuiet s t

/-- A load reaches no part of the state but memory and `IMAGE_END`. -/
theorem State.keepsBesidesImage_loadPairs (s : State) (ps : List (Word × Word)) :
    keepsBesidesImage s (s.loadPairs ps) := by
  induction ps generalizing s with
  | nil => simp [keepsBesidesImage, isQuiet]
  | cons p ps ih => simpa [keepsBesidesImage, isQuiet] using ih (s.loadPair p)

/-- Settles O3: the words and bytes of memory by what each pair writes and keeps, all else by
`State.keepsBesidesImage_loadPairs`. -/
theorem loadWritesPairsInOrder : Obligations.LoadWritesPairsInOrder := by
  intro s ps p hm hrun
  refine ⟨s.loadPairs (ps ++ [p]), hostLoad_eq_loadPairs (by simp) hrun, s.loadPairs_concat_imageEnd ps p,
    fun qs q rs hsplit hrs => ?readBack, fun a ha => State.readByte_loadPairs_of_ne hm ha,
    s.keepsBesidesImage_loadPairs _⟩
  case readBack =>
    rw [hsplit]
    exact State.readWord_loadPairs_of_last hm qs q hrs

/-! ## The invariant where a run begins (R200, R201) -/

/-- `STACK_START` is in `sp`'s range: no push has been made (R27). -/
theorem spInRange_stackStart (c : Config) : SpInRange c c.stackStart := by
  simp [SpInRange, Config.floor]

/-- A state with R200's values for `sp`, the flags and the engine meets the invariant, whatever its other parts are
within their own bounds. -/
theorem State.inv_of_reset_values {s : State} (hmem : Memory.wf s.mem = true) (hcfg : s.cfg.wf = true)
    (himage : s.imageEnd = 0 ∨ (2 ≤ s.imageEnd ∧ s.imageEnd ≤ 0x10001)) (hsp : s.sp = s.cfg.stackStart)
    (hflags : s.flags = ⟨false, false, false, false⟩) (hengine : s.engineState = .fetching)
    (hreason : s.stopReason = .none) : s.Inv := by
  obtain ⟨hlow, hhigh, heven⟩ : SpInRange s.cfg s.sp := hsp ▸ spInRange_stackStart s.cfg
  exact {
    mem := hmem
    cfg := hcfg
    spLow := hlow
    spHigh := hhigh
    spEven := heven
    flags := by simp [hflags]
    imageEnd := himage
    engine := .inl hengine
    reason := iff_of_true hreason hengine }

/-- Settles O5: `State.reset` has R200's values, and no load has set its `IMAGE_END`. -/
theorem resetStateMeetsInvariant : Obligations.ResetStateMeetsInvariant :=
  State.inv_of_reset_values State.wf_reset (by decide) (.inl rfl) rfl rfl rfl rfl

/-- The reset that begins a run meets the invariant, once a load has set `IMAGE_END`. -/
theorem State.runReset_inv {s : State} (hmem : Memory.wf s.mem = true) (hcfg : s.cfg.wf = true)
    (himage : 2 ≤ s.imageEnd ∧ s.imageEnd ≤ 0x10001) : s.runReset.Inv :=
  State.inv_of_reset_values hmem hcfg (.inr himage) rfl rfl rfl rfl

/-- A load with pairs leaves `IMAGE_END` at 2 or more, and at most 2 past the last address (R203). -/
theorem State.loadPairs_imageEnd_bounds (s : State) {ps : List (Word × Word)} (hne : ps ≠ []) :
    2 ≤ (s.loadPairs ps).imageEnd ∧ (s.loadPairs ps).imageEnd ≤ 0x10001 := by
  obtain rfl | ⟨qs, p, rfl⟩ := List.eq_nil_or_concat' ps
  · exact absurd rfl hne
  · have hlast : p.1.toNat < 65536 := p.1.isLt
    rw [State.loadPairs_concat_imageEnd]
    omega

/-- A load neither begins a run nor ends one (R206). -/
theorem State.loadPairs_inRun (s : State) (ps : List (Word × Word)) : (s.loadPairs ps).inRun = s.inRun := by
  obtain ⟨-, -, -, -, hengine, -, hbegun, -, -⟩ := s.keepsBesidesImage_loadPairs ps
  rw [State.inRun, State.inRun, hengine, hbegun]

/-- Settles O6: the load keeps the canonical form and the configuration and bounds `IMAGE_END`, and the run's reset
sets the rest. -/
theorem everyRunBeginsInInvariant : Obligations.EveryRunBeginsInInvariant := by
  intro s ps hm hwf hrun hne
  have himage := s.loadPairs_imageEnd_bounds hne
  have hcfg : (s.loadPairs ps).cfg.wf = true := by
    obtain ⟨-, -, -, -, -, -, -, hkept, -⟩ := s.keepsBesidesImage_loadPairs ps
    rw [hkept, hwf]
  have hidle : (s.loadPairs ps).inRun = false := (s.loadPairs_inRun ps).trans hrun
  exact ⟨s.loadPairs ps, (s.loadPairs ps).runReset, hostLoad_eq_loadPairs hne hrun,
    hostRun_eq_runReset hcfg himage.1 hidle, State.runReset_inv (State.wf_loadPairs hm ps) hcfg himage, rfl⟩

/-! ## What the host's operations refuse, and the readout (R202, R204, R206, R208) -/

/-- An empty load is turned away, during a run too (R204). -/
theorem hostLoad_nil (s : State) : hostLoad [] s = .refused .loadEmpty := rfl

/-- The configuration is looked at before all else (U7, log entry 19). -/
theorem hostRun_of_illFormed {s : State} (hwf : s.cfg.wf = false) : hostRun s = .refused .illFormedConfiguration :=
  if_pos hwf

/-- Without a load behind it no run begins (R202, U8). -/
theorem hostRun_of_not_loaded {s : State} (hwf : s.cfg.wf = true) (hload : s.imageEnd < 2) :
    hostRun s = .refused .runWithoutLoad := by
  have hnot : s.loaded = false := decide_eq_false (Nat.not_le_of_lt hload)
  rw [hostRun, if_neg (ne_false_of_eq_true hwf), if_pos hnot]

/-- Settles O2, a refusal at a time. -/
theorem hostRefusals : Obligations.HostRefusals :=
  ⟨hostLoad_nil, fun _ hwf hload => hostRun_of_not_loaded hwf hload, fun _ hwf => hostRun_of_illFormed hwf⟩

/-- In HALTED the readout is the raw state (R208). -/
theorem hostReadout_of_halted {s : State} (hh : s.engineState = .halted) :
    hostReadout s = .next ⟨s.x, s.pc, s.sp, s.flags, s.mem, s.stopReason⟩ :=
  if_pos hh

/-- Settles O4, by the engine's state. -/
theorem readoutOnlyInHalted : Obligations.ReadoutOnlyInHalted :=
  ⟨fun _ hh => hostReadout_of_halted hh, fun _ hh => hostReadout_of_not_halted hh⟩

end Sys2Proof.Machine
end
